-- ==== Sys2Proof/Word.lean ====
section
/-! DEFINITION. The word types of the block: bytes, 16-bit registers, command words and colours. -/

namespace Sys2Proof

/-- A u8 value (spec R88). -/
abbrev Byte := BitVec 8

/-- A u16 value (spec R88): counters, base registers and memory indexes. -/
abbrev Half := BitVec 16

/-- A command word, format `CMD` (spec R80). -/
abbrev CommandWord := BitVec 64

/-- The address token word of a command, format `TOK` (spec R85). -/
abbrev TokenWord := BitVec 32

/-- The 24-bit value field of a command, and the form in which LOAD answers (spec R88, R92). -/
abbrev ValueField := BitVec 24

/-- A Color: an RGB triple of three 8-bit components (spec R40). -/
structure Color where
  r : Byte
  g : Byte
  b : Byte
  deriving DecidableEq, Repr, Inhabited

/-- Black is (0, 0, 0) (spec R40). -/
def Color.black : Color := ⟨0, 0, 0⟩

end Sys2Proof
end

