-- ==== Sys2Proof/Config.lean ====
section
/-! DEFINITION. The implementation parameters of spec R7 and the values the spec leaves free.
Parameters that are plain data stand in `Params`, which State carries unchanged (log 4), so that a statement
about every state quantifies over them. Function-valued parameters are constants with no body. -/

namespace Sys2Proof

/-- `PALETTE_INDEX_POLICY` (spec R7, R179): what a palette byte of 0x40 or more does. -/
inductive PalettePolicy where
  | fault
  | mask6
  deriving DecidableEq, Repr

/-- `PPU_ADDR_OVERFLOW` (spec R7, R178): what a computed PPU address above 0xFFFF does. -/
inductive OverflowPolicy where
  | fault
  | wrap16
  deriving DecidableEq, Repr

/-- The two spaces a cartridge-mapped cell can lie in (spec R68). -/
inductive MapSpace where
  | cpu
  | ppu
  deriving DecidableEq, Repr

/-- The data parameters of spec R7. -/
structure Params where
  /-- `FRAME_CTR_WIDTH` (W): 1 ≤ W ≤ 24. -/
  frameWidth : Nat
  /-- `PALETTE_INDEX_POLICY`. -/
  palettePolicy : PalettePolicy
  /-- `PPU_ADDR_OVERFLOW`. -/
  overflowPolicy : OverflowPolicy
  /-- `CART_MAPPED`: the cartridge-mapped cells. -/
  cartMapped : List (MapSpace × Nat)
  deriving DecidableEq, Repr

/-- The range spec R7 gives the frame counter's width. -/
abbrev Params.wf (p : Params) : Prop := 1 ≤ p.frameWidth ∧ p.frameWidth ≤ 24

/-- The reference configuration (spec R7). -/
def Params.reference : Params where
  frameWidth := 16
  palettePolicy := .fault
  overflowPolicy := .fault
  cartMapped := []

/-- The 63 entries of the hardware palette table that the spec leaves open (R39, I11): a free value (log 5). -/
opaque Config.hwPaletteEntry : BitVec 6 → Color

/-- `HW_PALETTE` (spec R39): a fixed table of 64 colours, of which only entry 0x0F is given, black. -/
def Config.hwPalette (i : BitVec 6) : Color :=
  if i = 0x0F#6 then Color.black else Config.hwPaletteEntry i

/-- `MAPPER_STORE(space, index, old, v)` (spec R68): what a cartridge-mapped cell holds after a STORE of `v`.
The mapper is outside the block: a free value (log 10). -/
opaque Config.mapperStore : MapSpace → Half → Byte → Byte → Byte

/-- `INIT_IMAGE` (spec R7, R240): the contents a cartridge gives the session's CPU registers and memories. A
memory is a list of cells; an address it does not list holds the unlisted value. -/
structure InitImage where
  a : Byte
  x : Byte
  y : Byte
  p : Byte
  sp : Byte
  pc : Half
  cpuMem : List Host.Cell
  ppuMem : List Host.Cell
  spriteMem : List Host.Cell
  deriving DecidableEq, Repr, Inhabited

/-- The image whose registers and memories are all zero. -/
def InitImage.blank : InitImage where
  a := 0
  x := 0
  y := 0
  p := 0
  sp := 0
  pc := 0
  cpuMem := []
  ppuMem := []
  spriteMem := []

/-- A cartridge image as bytes. Its format belongs to the cartridge collaborator (spec R4, D29). -/
abbrev Cartridge := List Byte

/-- `CART_VALID` (spec R7, R204): the collaborator's header check, a free value (log 11). -/
opaque Config.cartValid : Cartridge → Bool

/-- The initial contents a valid cartridge supplies (spec R240), a free value (log 11). -/
opaque Config.initImage : Cartridge → InitImage

end Sys2Proof
end

