-- ==== Sys2Proof/Syntax.lean ====
section
/-! DEFINITION. The commands, address tokens and phase actions of the block: one constructor of `Instr` per row
of spec/opcode_table.json. -/

namespace Sys2Proof

/-- The issuing agent of a command (spec R83). -/
inductive Agent where
  | cpu
  | driver
  | cartridge
  | presentation
  deriving DecidableEq, Repr

/-- The CPU registers (spec R22, R23). -/
inductive CpuReg where
  | a
  | x
  | y
  | p
  | sp
  | pc
  deriving DecidableEq, Repr

/-- The typed address tokens (spec R44, R86). Every term is a valid token: the ranges of R87 are the types of
the indexes. -/
inductive Token where
  | cpuReg (r : CpuReg)
  | cpuMem (a : Half)
  | cycle
  | scanline
  | frame
  | scrollX
  | scrollY
  | nametableBase
  | bgPatternBase
  | vblank
  | nmiEnable
  | ppuMem (a : Half)
  | spriteMem (i : Byte)
  | screen (x : Byte) (y : Fin 240)
  | intLatch
  deriving DecidableEq, Repr

/-- The token operand of a command: a token, or a token word that names none, whose use raises `InvalidAddress`
(spec R87). -/
inductive TokenRef where
  | token (t : Token)
  | invalid (w : TokenWord)
  deriving DecidableEq, Repr

/-- The value types of the tokens (spec R88). -/
inductive ValueType where
  | u8
  | u16
  | frameCounter
  | bool
  | color
  | latch
  deriving DecidableEq, Repr

/-- The interrupt latch's values (spec R38): code 0, code 1, or an opaque kind whose code is 2 to 255. -/
inductive IntLatch where
  | none
  | nmi
  | other (code : Byte)
  deriving DecidableEq, Repr

/-- The value type of each token (spec R44, R86). -/
def Token.valueType : Token → ValueType
  | .cpuReg .pc => .u16
  | .cpuReg .a | .cpuReg .x | .cpuReg .y | .cpuReg .p | .cpuReg .sp => .u8
  | .cpuMem _ | .scrollX | .scrollY | .ppuMem _ | .spriteMem _ => .u8
  | .cycle | .scanline | .nametableBase | .bgPatternBase => .u16
  | .frame => .frameCounter
  | .vblank | .nmiEnable => .bool
  | .screen _ _ => .color
  | .intLatch => .latch

/-- The values of a type. A frame counter value is held in 24 bits, the widest width R7 allows (log 17). -/
abbrev ValueType.Carrier : ValueType → Type
  | .u8 => Byte
  | .u16 => Half
  | .frameCounter => BitVec 24
  | .bool => Bool
  | .color => Color
  | .latch => IntLatch

/-- The value type a token yields, so that an ill-typed access cannot be written (spec R11, R115). -/
abbrev Token.Value (t : Token) : Type := t.valueType.Carrier

/-- The frame phases (spec R93), which CLASSIFY returns. A phase is computed afresh in every STEP and is no
state (R41). -/
inductive Phase where
  | idleRender
  | visible
  | prefetch
  | postrender
  | enterVblank
  | vblankIdle
  | exitVblank
  | unreachable
  deriving DecidableEq, Repr

/-- The rows of spec/opcode_table.json: the four commands (R82) and the eight phase actions (R93). A phase
action is no command: only a STEP performs one (R94). -/
inductive Instr where
  | load (ag : Agent) (t : TokenRef)
  | store (ag : Agent) (t : TokenRef) (val : ValueField)
  | step (ag : Agent)
  | stepFrame (ag : Agent)
  | idleRender
  | visible
  | prefetch
  | postrender
  | enterVblank
  | vblankIdle
  | exitVblank
  | unreachable
  deriving DecidableEq, Repr

/-- The action each phase selects (spec R93). -/
def Phase.instr : Phase → Instr
  | .idleRender => .idleRender
  | .visible => .visible
  | .prefetch => .prefetch
  | .postrender => .postrender
  | .enterVblank => .enterVblank
  | .vblankIdle => .vblankIdle
  | .exitVblank => .exitVblank
  | .unreachable => .unreachable

end Sys2Proof
end

