-- ==== Sys2Proof/WellFormed.lean ====
section
/-! DEFINITION. The checks on a command's operands that the decode procedure makes before it performs it
(spec R91, checks 5 and 6). `W` is the frame counter's width. -/

namespace Sys2Proof

/-- The operand names a token (spec R87). -/
def TokenRef.valid : TokenRef → Bool
  | .token _ => true
  | .invalid _ => false

/-- The legal range of each value type (spec R88). -/
def ValueType.legal (W : Nat) : ValueType → ValueField → Bool
  | .u8, v => v.toNat < 0x100
  | .u16, v => v.toNat < 0x10000
  | .frameCounter, v => v.toNat < 2 ^ W
  | .bool, v => v.toNat < 2
  | .color, _ => true
  | .latch, v => v.toNat < 0x100

/-- Checks 5 and 6 of spec R91: the token is valid, and a STORE's value is of the token's type. -/
def Instr.wellFormed (W : Nat) : Instr → Bool
  | .load _ t => t.valid
  | .store _ (.token t) v => t.valueType.legal W v
  | .store _ (.invalid _) _ => false
  | .step _ | .stepFrame _ => true
  | .idleRender | .visible | .prefetch | .postrender => true
  | .enterVblank | .vblankIdle | .exitVblank | .unreachable => true

end Sys2Proof
end

