-- ==== Sys2Proof/Decode.lean ====
section
/-! DEFINITION. The command and token encodings (spec R80 to R97): the decoder, total on every word and rejecting
by name, and the encoder. Checks 1 to 4 of spec R91 are the decoder's. A token word that names no token decodes
to `TokenRef.invalid`, and checks 5 to 7, which the rules of LOAD and STORE list among their own steps (R110,
R111), are made by their meanings (log 12). -/

namespace Sys2Proof

/-! ### Fields (spec R80, R85) -/

/-- `op = w[63:60]`. -/
def opField (w : CommandWord) : BitVec 4 := w.extractLsb' 60 4

/-- `ag = w[59:58]`. -/
def agField (w : CommandWord) : BitVec 2 := w.extractLsb' 58 2

/-- `rsv = w[57:56]`. -/
def rsvField (w : CommandWord) : BitVec 2 := w.extractLsb' 56 2

/-- `tok = w[55:24]`. -/
def tokField (w : CommandWord) : TokenWord := w.extractLsb' 24 32

/-- `val = w[23:0]`. -/
def valField (w : CommandWord) : ValueField := w.extractLsb' 0 24

/-- `kind = tok[31:24]`. -/
def kindField (t : TokenWord) : Byte := t.extractLsb' 24 8

/-- `tz = tok[23:16]`. -/
def tzField (t : TokenWord) : Byte := t.extractLsb' 16 8

/-- `index = tok[15:0]`. -/
def indexField (t : TokenWord) : Half := t.extractLsb' 0 16

/-! ### Decoding -/

/-- The agent codes of spec R83. -/
def decodeAgent (a : BitVec 2) : Agent :=
  if a = 0#2 then .cpu else if a = 1#2 then .driver else if a = 2#2 then .cartridge else .presentation

/-- The CPU register of index `r` (spec R86): 0 A, 1 X, 2 Y, 3 P, 4 SP, 5 PC. -/
def decodeCpuReg (r : Half) : Option CpuReg :=
  if r = 0#16 then some .a
  else if r = 1#16 then some .x
  else if r = 2#16 then some .y
  else if r = 3#16 then some .p
  else if r = 4#16 then some .sp
  else if r = 5#16 then some .pc
  else none

/-- A single register's token: its index must be 0 (spec R87). -/
def singleToken (t : Token) (index : Half) : Option Token :=
  if index = 0#16 then some t else none

/-- A `Screen` token: index = 256·y + x, valid only for y ≤ 239 (spec R87). -/
def screenToken (index : Half) : Option Token :=
  if h : (index.extractLsb' 8 8).toNat < 240 then
    some (.screen (index.extractLsb' 0 8) ⟨(index.extractLsb' 8 8).toNat, h⟩)
  else none

/-- The token of an assigned kind and an index in its range (spec R86, R87). -/
def tokenOfKind (kind : Byte) (index : Half) : Option Token :=
  if kind = 0x01#8 then (decodeCpuReg index).map .cpuReg
  else if kind = 0x02#8 then some (.cpuMem index)
  else if kind = 0x10#8 then singleToken .cycle index
  else if kind = 0x11#8 then singleToken .scanline index
  else if kind = 0x12#8 then singleToken .frame index
  else if kind = 0x13#8 then singleToken .scrollX index
  else if kind = 0x14#8 then singleToken .scrollY index
  else if kind = 0x15#8 then singleToken .nametableBase index
  else if kind = 0x16#8 then singleToken .bgPatternBase index
  else if kind = 0x17#8 then singleToken .vblank index
  else if kind = 0x18#8 then singleToken .nmiEnable index
  else if kind = 0x19#8 then some (.ppuMem index)
  else if kind = 0x1A#8 then
    if index.toNat ≤ 0xFF then some (.spriteMem (index.extractLsb' 0 8)) else none
  else if kind = 0x1B#8 then screenToken index
  else if kind = 0x20#8 then singleToken .intLatch index
  else none

/-- Index validity (spec R87): `tz = 0`, an assigned kind, and an index in its range. -/
def tokenOfWord (t : TokenWord) : Option Token :=
  if tzField t = 0#8 then tokenOfKind (kindField t) (indexField t) else none

/-- The token operand a token word stands for. -/
def decodeToken (t : TokenWord) : TokenRef :=
  match tokenOfWord t with
  | some tok => .token tok
  | none => .invalid t

/-- Why the decoder rejects a command word: the first failing check among checks 1 to 4 of spec R91. Each raises
`IllegalCommand`. -/
inductive DecodeError where
  /-- Check 1: `op` is none of 1 to 4. -/
  | reservedOpcode
  /-- Check 2: `rsv` is not 0. -/
  | reservedBits
  /-- Check 3: a STEP or STEP_FRAME with a nonzero `tok` or `val`. -/
  | stepOperand
  /-- Check 4: a LOAD with a nonzero `val`. -/
  | loadValue
  deriving DecidableEq, Repr

/-- Checks 1 to 4 of the decode procedure (spec R91), in its order. -/
def decodeCommand (w : CommandWord) : Except DecodeError Instr :=
  let op := opField w
  let ag := decodeAgent (agField w)
  let t := decodeToken (tokField w)
  let stepLike := op = 0x3#4 ∨ op = 0x4#4
  if ¬(op = 0x1#4 ∨ op = 0x2#4 ∨ stepLike) then .error .reservedOpcode
  else if rsvField w ≠ 0#2 then .error .reservedBits
  else if stepLike ∧ (tokField w ≠ 0#32 ∨ valField w ≠ 0#24) then .error .stepOperand
  else if op = 0x1#4 ∧ valField w ≠ 0#24 then .error .loadValue
  else if op = 0x1#4 then .ok (.load ag t)
  else if op = 0x2#4 then .ok (.store ag t (valField w))
  else if op = 0x3#4 then .ok (.step ag)
  else .ok (.stepFrame ag)

/-- The phase of a 3-bit code (spec R93). -/
def decodePhase (c : BitVec 3) : Phase :=
  if c = 0#3 then .idleRender
  else if c = 1#3 then .visible
  else if c = 2#3 then .prefetch
  else if c = 3#3 then .postrender
  else if c = 4#3 then .enterVblank
  else if c = 5#3 then .vblankIdle
  else if c = 6#3 then .exitVblank
  else .unreachable

/-! ### The two formats of the opcode table -/

/-- A word in one of the opcode table's formats: `CMD`, which a host issues, or `PHASE`, the code CLASSIFY
returns inside a STEP and no host can issue (spec R93, R95). -/
inductive Code where
  | command (w : CommandWord)
  | phase (c : BitVec 3)
  deriving DecidableEq, Repr

/-- The instruction a word of either format stands for. -/
def decode : Code → Except DecodeError Instr
  | .command w => decodeCommand w
  | .phase c => .ok (decodePhase c).instr

/-! ### Encoding -/

/-- The agent codes of spec R83. -/
def encodeAgent : Agent → BitVec 2
  | .cpu => 0
  | .driver => 1
  | .cartridge => 2
  | .presentation => 3

/-- The register numbers of spec R86. -/
def encodeCpuReg : CpuReg → Half
  | .a => 0
  | .x => 1
  | .y => 2
  | .p => 3
  | .sp => 4
  | .pc => 5

/-- The kind codes of spec R86. -/
def Token.kind : Token → Byte
  | .cpuReg _ => 0x01
  | .cpuMem _ => 0x02
  | .cycle => 0x10
  | .scanline => 0x11
  | .frame => 0x12
  | .scrollX => 0x13
  | .scrollY => 0x14
  | .nametableBase => 0x15
  | .bgPatternBase => 0x16
  | .vblank => 0x17
  | .nmiEnable => 0x18
  | .ppuMem _ => 0x19
  | .spriteMem _ => 0x1A
  | .screen _ _ => 0x1B
  | .intLatch => 0x20

/-- The index of a token (spec R86): for `Screen`, 256·y + x. -/
def Token.index : Token → Half
  | .cpuReg r => encodeCpuReg r
  | .cpuMem a | .ppuMem a => a
  | .spriteMem i => 0#8 ++ i
  | .screen x y => BitVec.ofNat 8 y.val ++ x
  | .cycle | .scanline | .frame | .scrollX | .scrollY | .nametableBase | .bgPatternBase => 0
  | .vblank | .nmiEnable | .intLatch => 0

/-- The token word of spec R85: kind, then `tz` = 0, then index. -/
def Token.word (t : Token) : TokenWord := t.kind ++ 0#8 ++ t.index

/-- The token field of an operand. -/
def encodeToken : TokenRef → TokenWord
  | .token t => t.word
  | .invalid w => w

/-- A command word from its fields (spec R80), with `rsv` = 0. -/
def commandWord (op : BitVec 4) (ag : Agent) (tok : TokenWord) (val : ValueField) : CommandWord :=
  op ++ encodeAgent ag ++ 0#2 ++ tok ++ val

/-- The phase codes of spec R93. -/
def Phase.code : Phase → BitVec 3
  | .idleRender => 0
  | .visible => 1
  | .prefetch => 2
  | .postrender => 3
  | .enterVblank => 4
  | .vblankIdle => 5
  | .exitVblank => 6
  | .unreachable => 7

/-- The word of an instruction: a command word (spec R80, R82) or a phase code (R93). -/
def encode : Instr → Code
  | .load ag t => .command (commandWord 0x1 ag (encodeToken t) 0)
  | .store ag t v => .command (commandWord 0x2 ag (encodeToken t) v)
  | .step ag => .command (commandWord 0x3 ag 0 0)
  | .stepFrame ag => .command (commandWord 0x4 ag 0 0)
  | .idleRender => .phase Phase.idleRender.code
  | .visible => .phase Phase.visible.code
  | .prefetch => .phase Phase.prefetch.code
  | .postrender => .phase Phase.postrender.code
  | .enterVblank => .phase Phase.enterVblank.code
  | .vblankIdle => .phase Phase.vblankIdle.code
  | .exitVblank => .phase Phase.exitVblank.code
  | .unreachable => .phase Phase.unreachable.code

/-! ### The opcode table's numbering -/

/-- The format of a word the opcode table gives `nbits` bits, `PHASE` codes being shorter than a command word.
A phase code has 3 bits, so a longer value is none (log 15). -/
def codeOfTableWord (nbits w : Nat) : Option Code :=
  if nbits < 64 then (if w < 8 then some (.phase (BitVec.ofNat 3 w)) else none)
  else if w < 2 ^ 64 then some (.command (BitVec.ofNat 64 w)) else none

/-- The instruction the decoder reads from a word of the opcode table. -/
def decodeTableWord (nbits w : Nat) : Option Instr :=
  match codeOfTableWord nbits w with
  | some c => (decode c).toOption
  | none => none

end Sys2Proof
end

