-- ==== Sys2Proof/Machine/State.lean ====
section
/-! DEFINITION. The state of the block: the Hardware State (spec R20, R44), the fault status (R42), and the model's
own fields. -/

namespace Sys2Proof.Machine

/-- A byte memory: the cells that differ from the unlisted byte, by rising address (log 7). -/
abbrev Memory := List Host.Cell

/-- The screen buffer: the cells that differ from the unlisted colour, by rising index 256·y + x (log 8). -/
abbrev ScreenBuffer := List (Nat × Color)

/-- The fault causes of spec R200. -/
inductive FaultCode where
  /-- 0x01: a phase outside the classification (R141). -/
  | invariantViolation
  /-- 0x02: a token word that names no token (R87). -/
  | invalidAddress
  /-- 0x03: a STORE value outside the token's type (R89). -/
  | typeMismatch
  /-- 0x04: a cartridge that fails `CART_VALID` (R204). -/
  | malformedInput
  /-- 0x05: reserved; no rule raises it (R205). -/
  | resourceExhaustion
  /-- 0x06: a palette byte of 0x40 or more (R179). -/
  | paletteIndexRange
  /-- 0x07: a computed PPU address above 0xFFFF (R178). -/
  | ppuAddressOverflow
  /-- 0x08: an ill-formed command word (R91). -/
  | illegalCommand
  /-- 0x09: a STORE the latch protocol forbids (R113). -/
  | latchProtocolViolation
  deriving DecidableEq, Repr

/-- The numeric fault codes of spec R200. -/
def FaultCode.number : FaultCode → Nat
  | .invariantViolation => 0x01
  | .invalidAddress => 0x02
  | .typeMismatch => 0x03
  | .malformedInput => 0x04
  | .resourceExhaustion => 0x05
  | .paletteIndexRange => 0x06
  | .ppuAddressOverflow => 0x07
  | .illegalCommand => 0x08
  | .latchProtocolViolation => 0x09

/-- A raster position (spec R28). -/
structure Position where
  scanline : Half
  cycle : Half
  deriving DecidableEq, Repr

/-- The `info` of a fault record, one form per row of the table in spec R200. -/
inductive FaultInfo where
  /-- The offending position (`InvariantViolation`). -/
  | position (pos : Position)
  /-- The command word (faults of the command's encoding, and `LatchProtocolViolation`). -/
  | word (w : CommandWord)
  /-- The palette byte and the palette index (`PaletteIndexRange`). -/
  | palette (pb : Byte) (pi : Nat)
  /-- The computed address (`PpuAddressOverflow`). -/
  | address (n : Nat)
  /-- Nothing (`MalformedInput`, `ResourceExhaustion`). -/
  | none
  deriving DecidableEq, Repr

/-- A fault record {code, scanline, cycle, info} (spec R201). The position is absent for `MalformedInput`. -/
structure FaultRecord where
  code : FaultCode
  position : Option Position
  info : FaultInfo
  deriving DecidableEq, Repr

/-- The fault status (spec R42). -/
inductive Status where
  | running
  | aborted (rec : FaultRecord)
  deriving DecidableEq, Repr

/-- The Hardware State (spec R20): one field per token of R44, the four cell spaces as memories. -/
structure Hardware where
  cpuA : Byte
  cpuX : Byte
  cpuY : Byte
  cpuP : Byte
  cpuSP : Byte
  cpuPC : Half
  cpuMem : Memory
  cycle : Half
  scanline : Half
  frame : BitVec 24
  scrollX : Byte
  scrollY : Byte
  nametableBase : Half
  bgPatternBase : Half
  vblank : Bool
  nmiEnable : Bool
  ppuMem : Memory
  spriteMem : Memory
  screen : ScreenBuffer
  intLatch : IntLatch
  deriving DecidableEq, Repr

/-- The whole state: the Hardware State and the fault status, and three fields of the model's own (the
parameters, log 4; the commands issued and not yet performed, log 1; the last command's answer, log 2). -/
structure State where
  hw : Hardware
  status : Status
  params : Params
  commands : List CommandWord
  result : Option ValueField
  deriving DecidableEq, Repr

/-- Why the machine stops. -/
inductive Fault where
  /-- Raised by `step` and by every meaning when the status is `aborted rec`: no command has a step (spec R203).
  Safe: the spec's own terminal state. -/
  | sessionAborted (rec : FaultRecord)
  /-- Raised by `createSession` when the cartridge fails its check (spec R204, R240): no session exists. Safe:
  the spec's own fault `MalformedInput`. -/
  | sessionNotCreated (rec : FaultRecord)
  deriving DecidableEq, Repr

/-- Why the model gives no meaning. -/
inductive Refusal where
  /-- Raised by `exec` for an instruction with no meaning yet: none is left. Safe. -/
  | notModelled (mnemonic : String)
  /-- Raised by the meaning of VISIBLE taken by itself at a position with no Coordinate, one CLASSIFY does not call
  Visible: the operand range of spec R135 excludes it and no STEP dispatches it (log 13). Safe. -/
  | noCoordinate
  deriving DecidableEq, Repr

/-- The Hardware State right after session creation (spec R240, R44), for the image of all zeros and a black
screen (log 6, 7, 8). -/
def Hardware.reset : Hardware where
  cpuA := 0
  cpuX := 0
  cpuY := 0
  cpuP := 0
  cpuSP := 0
  cpuPC := 0
  cpuMem := []
  cycle := 340
  scanline := 240
  frame := 0
  scrollX := 0
  scrollY := 0
  nametableBase := 0x2000
  bgPatternBase := 0
  vblank := false
  nmiEnable := false
  ppuMem := []
  spriteMem := []
  screen := []
  intLatch := .none

/-- The machine right after reset: a running session in the reference configuration with no command issued
(spec R240, R7; log 1, 9). -/
def State.reset : State where
  hw := Hardware.reset
  status := .running
  params := Params.reference
  commands := []
  result := none

end Sys2Proof.Machine
end

