-- ==== Sys2Proof/Machine/Ops.lean ====
section
/-! DEFINITION. The shared operations: cells of a memory, the current position, completing a command, and taking a
fault. -/

namespace Sys2Proof.Machine

abbrev StepOutcome := Host.Outcome State Fault Refusal

/-! ### Cells

One memory access moves one whole cell (spec R61). A memory is a canonical list: `readCell` and `writeCell` take
the value `d` that an unlisted address reads as. -/

/-- The value an unlisted byte reads as (log 7). -/
def unlistedByte : Byte := 0

/-- The colour an unlisted screen cell reads as (log 8). -/
def unlistedColor : Color := Color.black

/-- Read the cell at `a`. -/
def readCell {α : Type} (d : α) : List (Nat × α) → Nat → α
  | [], _ => d
  | (b, v) :: m, a => if a = b then v else readCell d m a

/-- Put the cell `(a, v)` in front, unless `v` is what an unlisted address reads as. -/
def consCell {α : Type} [DecidableEq α] (d : α) (a : Nat) (v : α) (m : List (Nat × α)) : List (Nat × α) :=
  if v = d then m else (a, v) :: m

/-- Write `v` to the cell at `a`, keeping the canonical form. -/
def writeCell {α : Type} [DecidableEq α] (d : α) : List (Nat × α) → Nat → α → List (Nat × α)
  | [], a, v => consCell d a v []
  | (b, w) :: m, a, v =>
    if a < b then consCell d a v ((b, w) :: m)
    else if a = b then consCell d a v m
    else (b, w) :: writeCell d m a v

/-- The canonical form from address `lo` up to `size`: addresses rise strictly and no entry equals `d`. -/
def cellsWf {α : Type} [DecidableEq α] (d : α) (size : Nat) : Nat → List (Nat × α) → Bool
  | _, [] => true
  | lo, (a, v) :: m => decide (lo ≤ a) && decide (a < size) && decide (v ≠ d) && cellsWf d size (a + 1) m

/-- `MemRead(S:a, 1)` of a byte space (spec R10). -/
def readByte (m : Memory) (a : Nat) : Byte := readCell unlistedByte m a

/-- `MemWrite(S:a, 1, v)` of a byte space (spec R10). -/
def writeByte (m : Memory) (a : Nat) (v : Byte) : Memory := writeCell unlistedByte m a v

/-- The canonical form of a memory of `size` cells. -/
def Memory.wf (size : Nat) (m : Memory) : Bool := cellsWf unlistedByte size 0 m

/-- `MemRead(screen:(x, y), 1)` (spec R10), the index of (x, y) being 256·y + x (R86). -/
def readPixel (m : ScreenBuffer) (x y : Nat) : Color := readCell unlistedColor m (256 * y + x)

/-- `MemWrite(screen:(x, y), 1, v)` (spec R10). -/
def writePixel (m : ScreenBuffer) (x y : Nat) (v : Color) : ScreenBuffer :=
  writeCell unlistedColor m (256 * y + x) v

/-- The canonical form of the screen buffer of 61440 cells (spec R37, R60). -/
def ScreenBuffer.wf (m : ScreenBuffer) : Bool := cellsWf unlistedColor 61440 0 m

/-- The memory that holds the listed cells whose address lies below `size`, later entries over earlier ones. -/
def memoryOf (size : Nat) (cells : List Host.Cell) : Memory :=
  cells.foldl (fun m c => if c.1 < size then writeByte m c.1 c.2 else m) []

/-- The screen buffer that holds the listed cells. -/
def screenOf (cells : List (Nat × Color)) : ScreenBuffer :=
  cells.foldl (fun m c => if c.1 < 61440 then writeCell unlistedColor m c.1 c.2 else m) []

/-! ### Completing a command, and taking a fault -/

/-- The raster position (spec R10, `Pos`). -/
def Hardware.pos (h : Hardware) : Position := ⟨h.scanline, h.cycle⟩

/-- A command completes with the Hardware State `h` and no return value (spec R132). -/
def complete (s : State) (h : Hardware) : State := { s with hw := h, result := none }

/-- LOAD completes with the value `v` and no change of the Hardware State (spec R64, R110). -/
def answer (s : State) (v : ValueField) : State := { s with result := some v }

/-- Taking a fault (spec R202): the Hardware State is `h`, the one before the faulting command (for STEP_FRAME,
before the faulting STEP), and the status records the fault. -/
def takeFault (s : State) (h : Hardware) (rec : FaultRecord) : State :=
  { s with hw := h, status := .aborted rec, result := none }

/-- A fault's code and info, before its position is known. -/
structure FaultCause where
  code : FaultCode
  info : FaultInfo
  deriving DecidableEq, Repr

/-- The fault record of a cause at a position (spec R201). -/
def FaultCause.recordAt (c : FaultCause) (pos : Position) : FaultRecord := ⟨c.code, some pos, c.info⟩

/-- A command raises a fault at the current position, and nothing of it is performed (spec R91, R201, R202). -/
def raiseHere (s : State) (c : FaultCause) : StepOutcome := .next (takeFault s s.hw (c.recordAt s.hw.pos))

/-- In status `aborted` no command has a step (spec R203). -/
def ifRunning (s : State) (k : StepOutcome) : StepOutcome :=
  match s.status with
  | .running => k
  | .aborted rec => .fault (.sessionAborted rec)

end Sys2Proof.Machine
end

