-- ==== Sys2Proof/Machine/Operands.lean ====
section
/-! DEFINITION. The load/store interface over typed tokens (spec R10, R61, R112, R115) and the value encodings of
the command field (R88). -/

namespace Sys2Proof.Machine

/-! ### Value encodings -/

/-- A latch value's code (spec R38, R88). -/
def latchCode : IntLatch → Byte
  | .none => 0
  | .nmi => 1
  | .other k => k

/-- The latch value of a code (spec R38, R88). -/
def latchOfCode (c : Byte) : IntLatch :=
  if c = 0#8 then .none else if c = 1#8 then .nmi else .other c

/-- An opaque kind's code is 2 to 255 (spec R38). -/
def latchWf : IntLatch → Bool
  | .other k => 2 ≤ k.toNat
  | .none | .nmi => true

/-- The encoding of a value, zero-extended to 24 bits (spec R88, R92). -/
def encodeValue : (ty : ValueType) → ty.Carrier → ValueField
  | .u8, v => v.setWidth 24
  | .u16, v => v.setWidth 24
  | .frameCounter, v => v
  | .bool, v => if v then 1 else 0
  | .color, v => v.r ++ v.g ++ v.b
  | .latch, v => (latchCode v).setWidth 24

/-- The value a `val` field carries for a type, none where it lies outside the legal range (spec R88, R89).
`W` is the frame counter's width. -/
def decodeValue (W : Nat) : (ty : ValueType) → ValueField → Option ty.Carrier
  | .u8, v => if v.toNat < 0x100 then some (v.setWidth 8) else none
  | .u16, v => if v.toNat < 0x10000 then some (v.setWidth 16) else none
  | .frameCounter, v => if v.toNat < 2 ^ W then some v else none
  | .bool, v => if v = 0#24 then some false else if v = 1#24 then some true else none
  | .color, v => some ⟨v.extractLsb' 16 8, v.extractLsb' 8 8, v.extractLsb' 0 8⟩
  | .latch, v => if v.toNat < 0x100 then some (latchOfCode (v.setWidth 8)) else none

/-! ### Load and store of one token -/

/-- `x[T]`: the value of the one cell that token `t` names (spec R10, R61). -/
def Hardware.load (h : Hardware) : (t : Token) → t.Value
  | .cpuReg .a => h.cpuA
  | .cpuReg .x => h.cpuX
  | .cpuReg .y => h.cpuY
  | .cpuReg .p => h.cpuP
  | .cpuReg .sp => h.cpuSP
  | .cpuReg .pc => h.cpuPC
  | .cpuMem a => readByte h.cpuMem a.toNat
  | .cycle => h.cycle
  | .scanline => h.scanline
  | .frame => h.frame
  | .scrollX => h.scrollX
  | .scrollY => h.scrollY
  | .nametableBase => h.nametableBase
  | .bgPatternBase => h.bgPatternBase
  | .vblank => h.vblank
  | .nmiEnable => h.nmiEnable
  | .ppuMem a => readByte h.ppuMem a.toNat
  | .spriteMem i => readByte h.spriteMem i.toNat
  | .screen x y => readPixel h.screen x.toNat y.val
  | .intLatch => h.intLatch

/-- `x[T] <- v`: write the one cell that token `t` names (spec R10, R61). -/
def Hardware.store (h : Hardware) : (t : Token) → t.Value → Hardware
  | .cpuReg .a, v => { h with cpuA := v }
  | .cpuReg .x, v => { h with cpuX := v }
  | .cpuReg .y, v => { h with cpuY := v }
  | .cpuReg .p, v => { h with cpuP := v }
  | .cpuReg .sp, v => { h with cpuSP := v }
  | .cpuReg .pc, v => { h with cpuPC := v }
  | .cpuMem a, v => { h with cpuMem := writeByte h.cpuMem a.toNat v }
  | .cycle, v => { h with cycle := v }
  | .scanline, v => { h with scanline := v }
  | .frame, v => { h with frame := v }
  | .scrollX, v => { h with scrollX := v }
  | .scrollY, v => { h with scrollY := v }
  | .nametableBase, v => { h with nametableBase := v }
  | .bgPatternBase, v => { h with bgPatternBase := v }
  | .vblank, v => { h with vblank := v }
  | .nmiEnable, v => { h with nmiEnable := v }
  | .ppuMem a, v => { h with ppuMem := writeByte h.ppuMem a.toNat v }
  | .spriteMem i, v => { h with spriteMem := writeByte h.spriteMem i.toNat v }
  | .screen x y, v => { h with screen := writePixel h.screen x.toNat y.val v }
  | .intLatch, v => { h with intLatch := v }

/-- The cell is in `CART_MAPPED` (spec R7, R68). -/
def isMapped (p : Params) (space : MapSpace) (a : Half) : Bool := p.cartMapped.contains (space, a.toNat)

/-- What a byte cell holds after a STORE of `v` over `old` (spec R68, R111). -/
def storedByte (p : Params) (space : MapSpace) (a : Half) (old v : Byte) : Byte :=
  if isMapped p space a then Config.mapperStore space a old v else v

/-- The value a STORE of `v` leaves in the cell of `t`: the mapper's for a cartridge-mapped cell of CPU or PPU
memory, otherwise `v` (spec R111). -/
def storedValue (p : Params) (h : Hardware) : (t : Token) → t.Value → t.Value
  | .cpuMem a, v => storedByte p .cpu a (readByte h.cpuMem a.toNat) v
  | .ppuMem a, v => storedByte p .ppu a (readByte h.ppuMem a.toNat) v
  | .cpuReg .a, v | .cpuReg .x, v | .cpuReg .y, v | .cpuReg .p, v | .cpuReg .sp, v | .cpuReg .pc, v => v
  | .cycle, v | .scanline, v | .frame, v | .scrollX, v | .scrollY, v | .nametableBase, v => v
  | .bgPatternBase, v | .vblank, v | .nmiEnable, v | .spriteMem _, v | .screen _ _, v | .intLatch, v => v

end Sys2Proof.Machine
end

