-- ==== Sys2Proof/Machine/Flags.lean ====
section
/-! DEFINITION. The flags: the vertical-blank flag, the NMI request in the interrupt latch, and the latch protocol.
The block has no arithmetic flags (spec R34). -/

namespace Sys2Proof.Machine

/-- Raise vertical blank (spec R138): set the flag and, where NMI is enabled, latch a request over whatever the
latch held. -/
def raiseVblank (h : Hardware) : Hardware :=
  { h with vblank := true, intLatch := if h.nmiEnable then .nmi else h.intLatch }

/-- Clear the vertical-blank flag; the latch stays as it is (spec R140). -/
def clearVblank (h : Hardware) : Hardware := { h with vblank := false }

/-- The latch protocol (spec R113): no agent may store NMI, and only the CPU engine may replace a pending NMI. -/
def latchForbids (ag : Agent) (current new : IntLatch) : Bool :=
  decide (new = .nmi) || (decide (current = .nmi) && decide (ag ≠ .cpu))

/-- Check 7 of spec R91: the protocol forbids the store of `v` to `t`. -/
def protocolForbids (ag : Agent) (h : Hardware) : (t : Token) → t.Value → Bool
  | .intLatch, v => latchForbids ag h.intLatch v
  | .cpuReg _, _ | .cpuMem _, _ | .cycle, _ | .scanline, _ | .frame, _ | .scrollX, _ | .scrollY, _ => false
  | .nametableBase, _ | .bgPatternBase, _ | .vblank, _ | .nmiEnable, _ | .ppuMem _, _ => false
  | .spriteMem _, _ | .screen _ _, _ => false

end Sys2Proof.Machine
end

