-- ==== Sys2Proof/Machine/LoadStore.lean ====
section
/-! DEFINITION. The meanings of LOAD and STORE (spec R110, R111). -/

namespace Sys2Proof.Machine

/-- The command word of an instruction, as a fault record's info (spec R200). -/
def wordInfo (i : Instr) : FaultInfo :=
  match encode i with
  | .command w => .word w
  | .phase _ => .none

/-- LOAD (spec R110): check 5, then answer with the encoded value of the cell. -/
def execLoad (ag : Agent) (t : TokenRef) (s : State) : StepOutcome :=
  ifRunning s
    (match t with
    | .invalid _ => raiseHere s ⟨.invalidAddress, wordInfo (.load ag t)⟩
    | .token tok => .next (answer s (encodeValue tok.valueType (s.hw.load tok))))

/-- STORE (spec R111): checks 5, 6 and 7, then write the cell. -/
def execStore (ag : Agent) (t : TokenRef) (val : ValueField) (s : State) : StepOutcome :=
  ifRunning s
    (match t with
    | .invalid _ => raiseHere s ⟨.invalidAddress, wordInfo (.store ag t val)⟩
    | .token tok =>
      match decodeValue s.params.frameWidth tok.valueType val with
      | none => raiseHere s ⟨.typeMismatch, wordInfo (.store ag t val)⟩
      | some v =>
        if protocolForbids ag s.hw tok v then
          raiseHere s ⟨.latchProtocolViolation, wordInfo (.store ag t val)⟩
        else .next (complete s (s.hw.store tok (storedValue s.params s.hw tok v))))

end Sys2Proof.Machine
end

