-- ==== Sys2Proof/Machine/Pixel.lean ====
section
/-! DEFINITION. The background pixel pipeline, RENDER_PIXEL (spec R170 to R184), stage by stage, on natural
numbers (R9). -/

namespace Sys2Proof.Machine

/-! ### Stage arithmetic -/

/-- `sx <- (x + x[ScrollX]) mod 256` (spec R172). -/
def scrolledX (h : Hardware) (x : Nat) : Nat := (x + h.scrollX.toNat) % 256

/-- `sy <- (y + x[ScrollY]) mod 240` (spec R172). -/
def scrolledY (h : Hardware) (y : Nat) : Nat := (y + h.scrollY.toNat) % 240

/-- `tx <- (sx div 8) mod 32` (spec R173). -/
def tileX (sx : Nat) : Nat := sx / 8 % 32

/-- `ty <- (sy div 8) mod 30` (spec R173). -/
def tileY (sy : Nat) : Nat := sy / 8 % 30

/-- The address of the tile index byte, before `A` (spec R173). -/
def nametableAddr (h : Hardware) (tx ty : Nat) : Nat := h.nametableBase.toNat + 32 * ty + tx

/-- The address of a tile row's plane 0 byte, before `A`; plane 1 lies 8 above (spec R174). -/
def patternAddr (h : Hardware) (tile : Byte) (fy : Nat) : Nat :=
  h.bgPatternBase.toNat + 16 * tile.toNat + fy

/-- Bit `b` of a byte (spec R8). -/
def bitOf (v : Byte) (b : Nat) : Nat := v.toNat >>> b % 2

/-- The pattern colour `(hi[b] << 1) | lo[b]` with b = 7 - (sx mod 8) (spec R174). -/
def patternColor (lo hi : Byte) (sx : Nat) : Nat :=
  bitOf hi (7 - sx % 8) <<< 1 ||| bitOf lo (7 - sx % 8)

/-- `grp <- (ty div 4)*8 + (tx div 4)` (spec R175). -/
def attributeGroup (tx ty : Nat) : Nat := ty / 4 * 8 + tx / 4

/-- The address of the attribute byte, before `A` (spec R175). -/
def attributeAddr (h : Hardware) (tx ty : Nat) : Nat :=
  h.nametableBase.toNat + 0x3C0 + attributeGroup tx ty

/-- The quadrant's shift: left or right half, top or bottom half (spec R175). -/
def attributeShift (tx ty : Nat) : Nat :=
  (if tx % 4 < 2 then 0 else 2) + (if ty % 4 < 2 then 0 else 4)

/-- `acol <- (at >> sh) & 3` (spec R175). -/
def attributeColor (at' : Byte) (tx ty : Nat) : Nat := at'.toNat >>> attributeShift tx ty &&& 3

/-- `pi <- (acol << 2) | pat` (spec R176). -/
def paletteIndex (acol pat : Nat) : Nat := acol <<< 2 ||| pat

/-! ### Address formation and range policies -/

/-- PPU address formation `A(n)` (spec R178). -/
def formAddress (p : Params) (n : Nat) : Except FaultCause Nat :=
  if n ≤ 0xFFFF then .ok n
  else
    match p.overflowPolicy with
    | .fault => .error ⟨.ppuAddressOverflow, .address n⟩
    | .wrap16 => .ok (n % 0x10000)

/-- Form an address and read its PPU memory cell. -/
def readPpu (p : Params) (h : Hardware) (n : Nat) : Except FaultCause Byte :=
  match formAddress p n with
  | .ok a => .ok (readByte h.ppuMem a)
  | .error e => .error e

/-- The palette byte check `P(pb)` (spec R179); `pi` is for the fault's info. -/
def checkPalette (p : Params) (pb : Byte) (pi : Nat) : Except FaultCause (BitVec 6) :=
  if pb.toNat < 0x40 then .ok (pb.setWidth 6)
  else
    match p.palettePolicy with
    | .fault => .error ⟨.paletteIndexRange, .palette pb pi⟩
    | .mask6 => .ok (pb.setWidth 6)

/-! ### The instruction -/

/-- The hardware palette index of the pixel (x, y), with the reads and checks of RENDER_PIXEL in the order of spec
R180: nametable, plane 0, plane 1, attribute, palette byte, palette check. -/
def pixelIndex (p : Params) (h : Hardware) (x y : Nat) : Except FaultCause (BitVec 6) :=
  let sx := scrolledX h x
  let sy := scrolledY h y
  let tx := tileX sx
  let ty := tileY sy
  match readPpu p h (nametableAddr h tx ty) with
  | .error e => .error e
  | .ok tile =>
    match readPpu p h (patternAddr h tile (sy % 8)) with
    | .error e => .error e
    | .ok lo =>
      match readPpu p h (patternAddr h tile (sy % 8) + 8) with
      | .error e => .error e
      | .ok hi =>
        match readPpu p h (attributeAddr h tx ty) with
        | .error e => .error e
        | .ok at' =>
          let pi := paletteIndex (attributeColor at' tx ty) (patternColor lo hi sx)
          checkPalette p (readByte h.ppuMem (0x3F00 + pi)) pi

/-- RENDER_PIXEL (spec R170): store the pixel's colour at its unscrolled coordinate (R177). -/
def renderPixel (p : Params) (h : Hardware) (x y : Nat) : Except FaultCause Hardware :=
  match pixelIndex p h x y with
  | .error e => .error e
  | .ok i => .ok { h with screen := writePixel h.screen x y (Config.hwPalette i) }

end Sys2Proof.Machine
end

