-- ==== Sys2Proof/Machine/Timing.lean ====
section
/-! DEFINITION. TICK (spec R130) and CLASSIFY (R131), on natural numbers (R9). -/

namespace Sys2Proof.Machine

/-- The cycle after a TICK: step 1 increments it, step 2 resets it above 340 (spec R130). -/
def tickCycle (c : Nat) : Nat := if c + 1 > 340 then 0 else c + 1

/-- The scanline after steps 1 and 2 of TICK, before step 3 (spec R130). -/
def tickCarry (s c : Nat) : Nat := if c + 1 > 340 then s + 1 else s

/-- The scanline after a TICK: step 3, tested on every TICK, resets it above 261 (spec R130). -/
def tickScanline (s c : Nat) : Nat := if tickCarry s c > 261 then 0 else tickCarry s c

/-- The frame counter after a TICK: step 3 increments it modulo 2^W (spec R130, R27). -/
def tickFrame (W s c f : Nat) : Nat := if tickCarry s c > 261 then (f + 1) % 2 ^ W else f

/-- TICK: advance the raster position by one cycle (spec R130). -/
def tick (p : Params) (h : Hardware) : Hardware :=
  { h with
    cycle := BitVec.ofNat 16 (tickCycle h.cycle.toNat)
    scanline := BitVec.ofNat 16 (tickScanline h.scanline.toNat h.cycle.toNat)
    frame := BitVec.ofNat 24 (tickFrame p.frameWidth h.scanline.toNat h.cycle.toNat h.frame.toNat) }

/-- CLASSIFY: the frame phase of the position (s, c) (spec R131). -/
def classify (s c : Nat) : Phase :=
  if s ≤ 239 then
    if c = 0 then .idleRender
    else if 1 ≤ c ∧ c ≤ 256 then .visible
    else if 321 ≤ c ∧ c ≤ 336 then .prefetch
    else .idleRender
  else if s = 240 then .postrender
  else if s ≤ 261 then
    if s = 241 ∧ c = 1 then .enterVblank
    else if s = 261 ∧ c = 1 then .exitVblank
    else .vblankIdle
  else .unreachable

/-- The phase of the current position (spec R132). -/
def phaseOf (h : Hardware) : Phase := classify h.scanline.toNat h.cycle.toNat

end Sys2Proof.Machine
end

