-- ==== Sys2Proof/Machine/PhaseActions.lean ====
section
/-! DEFINITION. The eight phase actions (spec R134 to R141): the action on the Hardware State that a STEP performs,
and the meaning of each action taken by itself at the current position (log 13). -/

namespace Sys2Proof.Machine

/-! ### The actions -/

/-- IDLE_RENDER: no action (spec R134). -/
def idleRenderAction (h : Hardware) : Except FaultCause Hardware := .ok h

/-- VISIBLE: render the pixel x = c - 1, y = s (spec R135, R171). -/
def visibleAction (p : Params) (h : Hardware) : Except FaultCause Hardware :=
  renderPixel p h (h.cycle.toNat - 1) h.scanline.toNat

/-- PREFETCH: no action (spec R136). -/
def prefetchAction (h : Hardware) : Except FaultCause Hardware := .ok h

/-- POSTRENDER: no action (spec R137). -/
def postrenderAction (h : Hardware) : Except FaultCause Hardware := .ok h

/-- ENTER_VBLANK: raise vertical blank (spec R138). -/
def enterVblankAction (h : Hardware) : Except FaultCause Hardware := .ok (raiseVblank h)

/-- VBLANK_IDLE: no action (spec R139). -/
def vblankIdleAction (h : Hardware) : Except FaultCause Hardware := .ok h

/-- EXIT_VBLANK: clear vertical blank (spec R140). -/
def exitVblankAction (h : Hardware) : Except FaultCause Hardware := .ok (clearVblank h)

/-- UNREACHABLE: an invariant violation, with the offending position (spec R141). -/
def unreachableAction (h : Hardware) : Except FaultCause Hardware :=
  .error ⟨.invariantViolation, .position h.pos⟩

/-- The dispatch map (spec R93, R94): the action of a phase. -/
def phaseAction (p : Params) (ph : Phase) (h : Hardware) : Except FaultCause Hardware :=
  match ph with
  | .idleRender => idleRenderAction h
  | .visible => visibleAction p h
  | .prefetch => prefetchAction h
  | .postrender => postrenderAction h
  | .enterVblank => enterVblankAction h
  | .vblankIdle => vblankIdleAction h
  | .exitVblank => exitVblankAction h
  | .unreachable => unreachableAction h

/-! ### The meanings -/

/-- Complete with an action's Hardware State, or take its fault at the current position (spec R201, R202). -/
def runAction (s : State) (r : Except FaultCause Hardware) : StepOutcome :=
  ifRunning s
    (match r with
    | .ok h => .next (complete s h)
    | .error c => raiseHere s c)

/-- IDLE_RENDER (spec R134). -/
def execIdleRender (s : State) : StepOutcome := runAction s (idleRenderAction s.hw)

/-- VISIBLE (spec R135), at a position with a Coordinate. -/
def execVisible (s : State) : StepOutcome :=
  ifRunning s
    (if phaseOf s.hw = .visible then runAction s (visibleAction s.params s.hw) else .refused .noCoordinate)

/-- PREFETCH (spec R136). -/
def execPrefetch (s : State) : StepOutcome := runAction s (prefetchAction s.hw)

/-- POSTRENDER (spec R137). -/
def execPostrender (s : State) : StepOutcome := runAction s (postrenderAction s.hw)

/-- ENTER_VBLANK (spec R138). -/
def execEnterVblank (s : State) : StepOutcome := runAction s (enterVblankAction s.hw)

/-- VBLANK_IDLE (spec R139). -/
def execVblankIdle (s : State) : StepOutcome := runAction s (vblankIdleAction s.hw)

/-- EXIT_VBLANK (spec R140). -/
def execExitVblank (s : State) : StepOutcome := runAction s (exitVblankAction s.hw)

/-- UNREACHABLE (spec R141): it takes the fault `InvariantViolation` on every path. -/
def execUnreachable (s : State) : StepOutcome := runAction s (unreachableAction s.hw)

end Sys2Proof.Machine
end

