-- ==== Sys2Proof/Machine/StepCommands.lean ====
section
/-! DEFINITION. The meanings of STEP and STEP_FRAME (spec R132, R142). -/

namespace Sys2Proof.Machine

/-- The body of STEP after its decode checks (spec R132): TICK, classify the new position, act. A faulting action
gives the fault record, at the post-TICK position (R201). -/
def stepBody (p : Params) (h : Hardware) : Except FaultRecord Hardware :=
  let h1 := tick p h
  match phaseAction p (phaseOf h1) h1 with
  | .ok h2 => .ok h2
  | .error c => .error (c.recordAt h1.pos)

/-- `n` STEP bodies, stopping at the first fault: the Hardware State after the STEPs that completed, and the fault
of the one that did not (spec R142, R202). -/
def stepBodies (p : Params) : Nat → Hardware → Hardware × Option FaultRecord
  | 0, h => (h, none)
  | n + 1, h =>
    match stepBody p h with
    | .ok h' => stepBodies p n h'
    | .error rec => (h, some rec)

/-- The STEPs of a frame: 341 cycles × 262 scanlines (spec R133, R142). -/
def frameSteps : Nat := 89342

/-- STEP: advance one PPU cycle and react (spec R132). The agent is ignored (R83). -/
def execStep (_ag : Agent) (s : State) : StepOutcome :=
  ifRunning s
    (match stepBody s.params s.hw with
    | .ok h => .next (complete s h)
    | .error rec => .next (takeFault s s.hw rec))

/-- STEP_FRAME: run one full frame (spec R142). The agent is ignored (R83). -/
def execStepFrame (_ag : Agent) (s : State) : StepOutcome :=
  ifRunning s
    (match stepBodies s.params frameSteps s.hw with
    | (h, none) => .next (complete s h)
    | (h, some rec) => .next (takeFault s h rec))

end Sys2Proof.Machine
end

