-- ==== Sys2Proof/Machine/Dispatch.lean ====
section
/-! DEFINITION. `exec`: one arm per row of the opcode table. -/

namespace Sys2Proof.Machine

def exec (i : Instr) (s : State) : Host.Outcome State Fault Refusal :=
  match i with
  | .load ag t => Sys2Proof.Machine.execLoad ag t s
  | .store ag t val => Sys2Proof.Machine.execStore ag t val s
  | .step ag => Sys2Proof.Machine.execStep ag s
  | .stepFrame ag => Sys2Proof.Machine.execStepFrame ag s
  | .idleRender => Sys2Proof.Machine.execIdleRender s
  | .visible => Sys2Proof.Machine.execVisible s
  | .prefetch => Sys2Proof.Machine.execPrefetch s
  | .postrender => Sys2Proof.Machine.execPostrender s
  | .enterVblank => Sys2Proof.Machine.execEnterVblank s
  | .vblankIdle => Sys2Proof.Machine.execVblankIdle s
  | .exitVblank => Sys2Proof.Machine.execExitVblank s
  | .unreachable => Sys2Proof.Machine.execUnreachable s

end Sys2Proof.Machine
end

