-- ==== Sys2Proof/Machine/Fetch.lean ====
section
/-! DEFINITION. Where the block's commands come from: the list of command words that outside agents have issued
(spec R5, R6; log 1), and how a word of the opcode table is placed so that the next step runs it (log 14). -/

namespace Sys2Proof.Machine

/-- The next command word, and the state with it taken from the list. Commands are performed in issue order
(spec R70). -/
def nextCommand (s : State) : Option (CommandWord × State) :=
  match s.commands with
  | [] => none
  | w :: rest => some (w, { s with commands := rest })

/-- A word that fails one of checks 1 to 4 of spec R91 raises `IllegalCommand` at the current position. -/
def rejectCommand (w : CommandWord) (s : State) : StepOutcome := raiseHere s ⟨.illegalCommand, .word w⟩

/-- `s` with the word `w` issued as its next command. -/
def issueCommand (s : State) (w : CommandWord) : State := { s with commands := w :: s.commands }

/-- The word of `step.drv` (spec R99). -/
def stepWord : CommandWord := 0x3400000000000000

/-- A position (scanline, cycle) from which one TICK reaches a position of the phase, none for UNREACHABLE, which
no TICK reaches (spec R141). -/
def positionBefore : Phase → Option Position
  | .idleRender => some ⟨0, 256⟩
  | .visible => some ⟨0, 0⟩
  | .prefetch => some ⟨0, 320⟩
  | .postrender => some ⟨240, 0⟩
  | .enterVblank => some ⟨241, 0⟩
  | .vblankIdle => some ⟨241, 1⟩
  | .exitVblank => some ⟨261, 0⟩
  | .unreachable => none

/-- `s` moved to the position before the phase's, with a STEP as its next command: the only way the block performs
a phase action (spec R94). -/
def placePhase (s : State) (ph : Phase) : State :=
  match positionBefore ph with
  | some pos => issueCommand { s with hw := { s.hw with scanline := pos.scanline, cycle := pos.cycle } } stepWord
  | none => s

/-- `s` with a word of either format placed as what the next step runs. -/
def placeCode (s : State) : Code → State
  | .command w => issueCommand s w
  | .phase c => placePhase s (decodePhase c)

end Sys2Proof.Machine
end

