-- ==== Sys2Proof/Machine/Session.lean ====
section
/-! DEFINITION. Session creation from a cartridge (spec R240, R204). It is no command: a session exists before any
step (R241; log 11). -/

namespace Sys2Proof.Machine

/-- The Hardware State of a new session (spec R240): the image's registers and memories, the spec's reset values,
and the screen contents `SCREEN_INIT`, given as the list of the cells that are not black. -/
def sessionHardware (screenInit : List (Nat × Color)) (img : InitImage) : Hardware where
  cpuA := img.a
  cpuX := img.x
  cpuY := img.y
  cpuP := img.p
  cpuSP := img.sp
  cpuPC := img.pc
  cpuMem := memoryOf 65536 img.cpuMem
  cycle := 340
  scanline := 240
  frame := 0
  scrollX := 0
  scrollY := 0
  nametableBase := 0x2000
  bgPatternBase := 0x0000
  vblank := false
  nmiEnable := false
  ppuMem := memoryOf 65536 img.ppuMem
  spriteMem := memoryOf 256 img.spriteMem
  screen := screenOf screenInit
  intLatch := .none

/-- A new running session (spec R240). -/
def sessionState (p : Params) (screenInit : List (Nat × Color)) (img : InitImage) : State where
  hw := sessionHardware screenInit img
  status := .running
  params := p
  commands := []
  result := none

/-- `create(image)` (spec R240): a cartridge that fails its check gives `MalformedInput` and no session (R204). -/
def createSession (p : Params) (screenInit : List (Nat × Color)) (cart : Cartridge) : StepOutcome :=
  if Config.cartValid cart then .next (sessionState p screenInit (Config.initImage cart))
  else .fault (.sessionNotCreated ⟨.malformedInput, none, .none⟩)

end Sys2Proof.Machine
end

