-- ==== Sys2Proof/Machine/Step.lean ====
section
/-! DEFINITION. One step of the machine: the next issued command (spec R5, R91). -/

namespace Sys2Proof.Machine

/-- One step. An aborted session has none (spec R203). A running one performs its next command (R91, R70); with no
command issued it does nothing and its state persists (R218). -/
def step (s : State) : Host.Outcome State Fault Refusal :=
  ifRunning s
    (match nextCommand s with
    | none => .next s
    | some (w, s') =>
      match decodeCommand w with
      | .ok i => exec i s'
      | .error _ => rejectCommand w s')

/-- `s` with the instruction of a word of the opcode table placed so that the next step runs it. A command word is
issued as the next command; a phase action runs inside a STEP, so the position before it is set and a STEP is
issued. UNREACHABLE, which no STEP dispatches, leaves `s` as it is (log 14). -/
def State.withFetchWord (s : State) (nbits w : Nat) : State :=
  match codeOfTableWord nbits w with
  | some c => placeCode s c
  | none => s

end Sys2Proof.Machine
end

