-- ==== Sys2Proof/Safety.lean ====
section
/-! DEFINITION. What counts as a good state and a good step: the terms the statements use. -/

namespace Sys2Proof.Machine

/-- The info of a record has the form the table of spec R200 gives its code. -/
def FaultRecord.wf (rec : FaultRecord) : Bool :=
  match rec.code, rec.position, rec.info with
  | .invariantViolation, some pos, .position pos' => pos = pos'
  | .invalidAddress, some _, .word _ => true
  | .typeMismatch, some _, .word _ => true
  | .illegalCommand, some _, .word _ => true
  | .latchProtocolViolation, some _, .word _ => true
  | .paletteIndexRange, some _, .palette pb pi => 0x40 ≤ pb.toNat && pi < 16
  | .ppuAddressOverflow, some _, .address n => 0xFFFF < n
  | _, _, _ => false

/-- The Hardware State is as the spec types it: every memory in canonical form within its size, the frame counter
within its width (R27), the latch one of its values (R38). -/
structure Hardware.Wf (p : Params) (h : Hardware) : Prop where
  cpuMem : Memory.wf 65536 h.cpuMem = true
  ppuMem : Memory.wf 65536 h.ppuMem = true
  spriteMem : Memory.wf 256 h.spriteMem = true
  screen : ScreenBuffer.wf h.screen = true
  frame : h.frame.toNat < 2 ^ p.frameWidth
  intLatch : latchWf h.intLatch = true

/-- The invariant of the machine: the parameters in their range (spec R7), the Hardware State well typed, and the
record of an aborted session of a form that R200 and R201 give. -/
structure State.Inv (s : State) : Prop where
  params : s.params.wf
  hw : s.hw.Wf s.params
  record : ∀ rec, s.status = .aborted rec → rec.wf = true

/-- The raster position lies in the range TICK keeps (spec R25, R26). -/
def Hardware.InRange (h : Hardware) : Prop := h.cycle.toNat ≤ 340 ∧ h.scanline.toNat ≤ 261

end Sys2Proof.Machine
end

