-- ==== Sys2Proof/Certificates/Slice0/Obligations.lean ====
section
/-! DEFINITION. The statements about the block, for the provers. The helpers before them restate the spec's fields,
tables and formulas in plain arithmetic, apart from the model's own definitions. "D<n>" names a decision of
92_eei_decisions.md, which the spec marks as its own choice; "log <n>" a choice of the model. -/

namespace Sys2Proof.Slice0

open Sys2Proof Sys2Proof.Machine

/-! ### The fields of a command word as numbers (spec R80, R85) -/

def fieldOp (w : CommandWord) : Nat := w.toNat / 2 ^ 60
def fieldAgent (w : CommandWord) : Nat := w.toNat / 2 ^ 58 % 4
def fieldRsv (w : CommandWord) : Nat := w.toNat / 2 ^ 56 % 4
def fieldTok (w : CommandWord) : Nat := w.toNat / 2 ^ 24 % 2 ^ 32
def fieldKind (w : CommandWord) : Nat := w.toNat / 2 ^ 48 % 256
def fieldTz (w : CommandWord) : Nat := w.toNat / 2 ^ 40 % 256
def fieldIndex (w : CommandWord) : Nat := w.toNat / 2 ^ 24 % 65536
def fieldVal (w : CommandWord) : Nat := w.toNat % 2 ^ 24

/-- Checks 1 to 4 of spec R91 pass. -/
def PassesCommandChecks (w : CommandWord) : Prop :=
  (1 ≤ fieldOp w ∧ fieldOp w ≤ 4) ∧ fieldRsv w = 0 ∧
    (3 ≤ fieldOp w → fieldTok w = 0 ∧ fieldVal w = 0) ∧ (fieldOp w = 1 → fieldVal w = 0)

/-- Check 5: the token word names a token (spec R86, R87). -/
def NamesToken (w : CommandWord) : Prop :=
  fieldTz w = 0 ∧
    ((fieldKind w = 0x01 ∧ fieldIndex w ≤ 5) ∨ fieldKind w = 0x02 ∨
      (0x10 ≤ fieldKind w ∧ fieldKind w ≤ 0x18 ∧ fieldIndex w = 0) ∨ fieldKind w = 0x19 ∨
      (fieldKind w = 0x1A ∧ fieldIndex w ≤ 0xFF) ∨ (fieldKind w = 0x1B ∧ fieldIndex w ≤ 0xEFFF) ∨
      (fieldKind w = 0x20 ∧ fieldIndex w = 0))

/-- Check 6: the bound of a STORE's value, by kind (spec R86, R88). `W` is the frame counter's width. -/
def valueBound (W : Nat) (w : CommandWord) : Nat :=
  if fieldKind w = 0x01 then (if fieldIndex w = 5 then 2 ^ 16 else 2 ^ 8)
  else if fieldKind w = 0x10 ∨ fieldKind w = 0x11 ∨ fieldKind w = 0x15 ∨ fieldKind w = 0x16 then 2 ^ 16
  else if fieldKind w = 0x12 then 2 ^ W
  else if fieldKind w = 0x17 ∨ fieldKind w = 0x18 then 2
  else if fieldKind w = 0x1B then 2 ^ 24
  else 2 ^ 8

/-- The next state of a command that raises a fault before it is performed: the Hardware State as it was, and the
record {code, current position, command word} (spec R201, R202). -/
def abortedBy (s : State) (code : FaultCode) (w : CommandWord) : StepOutcome :=
  .next { s with status := .aborted ⟨code, some ⟨s.hw.scanline, s.hw.cycle⟩, .word w⟩, result := none }

/-- The next state of an action that raises a fault at the current position. -/
def abortedHere (s : State) (code : FaultCode) (info : FaultInfo) : StepOutcome :=
  .next { s with status := .aborted ⟨code, some ⟨s.hw.scanline, s.hw.cycle⟩, info⟩, result := none }

/-- The token operand is one the decoder can give. -/
def CanonicalRef : TokenRef → Prop
  | .token _ => True
  | .invalid w => tokenOfWord w = none

/-- The operands of an instruction are ones the decoder can give. -/
def CanonicalOperands : Instr → Prop
  | .load _ t | .store _ t _ => CanonicalRef t
  | .step _ | .stepFrame _ | .idleRender | .visible | .prefetch | .postrender => True
  | .enterVblank | .vblankIdle | .exitVblank | .unreachable => True

/-! ### Cells as numbers -/

/-- The code of a latch value (spec R38). -/
def latchNumber : IntLatch → Nat
  | .none => 0
  | .nmi => 1
  | .other k => k.toNat

/-- The number that encodes the value of a token's cell (spec R88). -/
def cellNumber (h : Hardware) : Token → Nat
  | .cpuReg .a => h.cpuA.toNat
  | .cpuReg .x => h.cpuX.toNat
  | .cpuReg .y => h.cpuY.toNat
  | .cpuReg .p => h.cpuP.toNat
  | .cpuReg .sp => h.cpuSP.toNat
  | .cpuReg .pc => h.cpuPC.toNat
  | .cpuMem a => (readByte h.cpuMem a.toNat).toNat
  | .cycle => h.cycle.toNat
  | .scanline => h.scanline.toNat
  | .frame => h.frame.toNat
  | .scrollX => h.scrollX.toNat
  | .scrollY => h.scrollY.toNat
  | .nametableBase => h.nametableBase.toNat
  | .bgPatternBase => h.bgPatternBase.toNat
  | .vblank => if h.vblank then 1 else 0
  | .nmiEnable => if h.nmiEnable then 1 else 0
  | .ppuMem a => (readByte h.ppuMem a.toNat).toNat
  | .spriteMem i => (readByte h.spriteMem i.toNat).toNat
  | .screen x y =>
    (readPixel h.screen x.toNat y.val).r.toNat * 65536 + (readPixel h.screen x.toNat y.val).g.toNat * 256 +
      (readPixel h.screen x.toNat y.val).b.toNat
  | .intLatch => latchNumber h.intLatch

/-! ### The raster -/

/-- The cycle after a TICK (spec R130). -/
def nextCycle (c : Nat) : Nat := if 340 ≤ c then 0 else c + 1

/-- The scanline after a TICK (spec R130). -/
def nextScanline (s c : Nat) : Nat :=
  if 340 ≤ c then (if 261 ≤ s then 0 else s + 1) else (if 262 ≤ s then 0 else s)

/-- The TICK wraps the scanline (spec R130, step 3). -/
def Wraps (s c : Nat) : Prop := 262 ≤ s ∨ (s = 261 ∧ 340 ≤ c)

/-- The position of a state as numbers. -/
def scan (h : Hardware) : Nat := h.scanline.toNat

/-- The cycle of a state as a number. -/
def cyc (h : Hardware) : Nat := h.cycle.toNat

/-- The position the next STEP acts on is (s, c). -/
def NextPosition (h : Hardware) (s c : Nat) : Prop :=
  nextScanline (scan h) (cyc h) = s ∧ nextCycle (cyc h) = c

/-- The Hardware State after a TICK alone. -/
def Ticked (p : Params) (h h' : Hardware) : Prop :=
  h' = { h with cycle := h'.cycle, scanline := h'.scanline, frame := h'.frame } ∧
    cyc h' = nextCycle (cyc h) ∧ scan h' = nextScanline (scan h) (cyc h) ∧
    (Wraps (scan h) (cyc h) → h'.frame.toNat = (h.frame.toNat + 1) % 2 ^ p.frameWidth) ∧
    (¬ Wraps (scan h) (cyc h) → h'.frame = h.frame)

/-! ### The pixel pipeline (spec R170), with its stages written out flat -/

/-- The tile's address, from the scrolled coordinate (spec R173, R182). -/
def tileAddress (ntb sx sy : Nat) : Nat := ntb + 32 * (sy / 8) + sx / 8

/-- The address of plane 0 of the tile row (spec R174). -/
def planeAddress (pb tile sy : Nat) : Nat := pb + 16 * tile + sy % 8

/-- The attribute byte's address (spec R175). -/
def groupAddress (ntb sx sy : Nat) : Nat := ntb + 0x3C0 + (sy / 32 * 8 + sx / 32)

/-- The 2-bit pattern colour (spec R174). -/
def patternNumber (lo hi sx : Nat) : Nat := 2 * (hi / 2 ^ (7 - sx % 8) % 2) + lo / 2 ^ (7 - sx % 8) % 2

/-- The 2-bit attribute colour: the quadrant's field (spec R175). -/
def attributeNumber (att sx sy : Nat) : Nat := att / 2 ^ (2 * (sx / 16 % 2) + 4 * (sy / 16 % 2)) % 4

/-- The palette index of a scrolled coordinate, `mem` being PPU memory as the pipeline's computed addresses
reach it (spec R176). -/
def paletteNumber (mem : Nat → Nat) (ntb pb sx sy : Nat) : Nat :=
  4 * attributeNumber (mem (groupAddress ntb sx sy)) sx sy +
    patternNumber (mem (planeAddress pb (mem (tileAddress ntb sx sy)) sy))
      (mem (planeAddress pb (mem (tileAddress ntb sx sy)) sy + 8)) sx

/-- PPU memory as numbers. -/
def ppu (h : Hardware) (a : Nat) : Nat := (readByte h.ppuMem a).toNat

/-- The scrolled coordinate (spec R172). -/
def scrollOfX (h : Hardware) (x : Nat) : Nat := (x + h.scrollX.toNat) % 256
def scrollOfY (h : Hardware) (y : Nat) : Nat := (y + h.scrollY.toNat) % 240

/-- The palette index of the pixel (x, y), no address wrapping. -/
def pixelNumber (h : Hardware) (x y : Nat) : Nat :=
  paletteNumber (ppu h) h.nametableBase.toNat h.bgPatternBase.toNat (scrollOfX h x) (scrollOfY h y)

/-- The palette index of the pixel (x, y), addresses reduced modulo 65536 (spec R178, `wrap16`). -/
def wrappedPixelNumber (h : Hardware) (x y : Nat) : Nat :=
  paletteNumber (fun a => ppu h (a % 65536)) h.nametableBase.toNat h.bgPatternBase.toNat (scrollOfX h x)
    (scrollOfY h y)

/-- The bases keep every computed address at or below 0xFFFF (spec R243, R178). -/
def BasesFit (h : Hardware) : Prop := h.nametableBase.toNat ≤ 0xFC00 ∧ h.bgPatternBase.toNat ≤ 0xF000

/-- The pixel (x, y)'s own nametable, plane and attribute addresses lie at or below 0xFFFF (spec R178). Plane 0 lies
below plane 1. -/
def PixelFits (h : Hardware) (x y : Nat) : Prop :=
  tileAddress h.nametableBase.toNat (scrollOfX h x) (scrollOfY h y) ≤ 0xFFFF ∧
    planeAddress h.bgPatternBase.toNat
      (ppu h (tileAddress h.nametableBase.toNat (scrollOfX h x) (scrollOfY h y))) (scrollOfY h y) + 8 ≤ 0xFFFF ∧
    groupAddress h.nametableBase.toNat (scrollOfX h x) (scrollOfY h y) ≤ 0xFFFF

/-- The colour of a hardware palette entry (spec R39). -/
def hardwareColor (n : Nat) : Color := Config.hwPalette (BitVec.ofNat 6 n)

/-- `h` with the screen cell (x, y) set to the colour of hardware palette entry `n`. -/
def rendered (h : Hardware) (x y n : Nat) : Hardware :=
  { h with screen := writePixel h.screen x y (hardwareColor n) }

/-- The position is Visible: the pixel (c - 1, s) (spec R131, R171). -/
def VisibleAt (h : Hardware) : Prop := scan h ≤ 239 ∧ 1 ≤ cyc h ∧ cyc h ≤ 256

/-- One of the STEPs of a STEP_FRAME from `s` that complete enters vertical blank at (241, 1) (spec R142, R138). -/
def FrameEntersVblank (s : State) : Prop :=
  ∃ n h h', n < 89342 ∧ stepBodies s.params n s.hw = (h, none) ∧ stepBody s.params h = .ok h' ∧
    NextPosition h 241 1

/-- What the phase actions and STEP never write (spec R45). -/
def EngineLeaves (h h' : Hardware) : Prop :=
  h' = { h with cycle := h'.cycle, scanline := h'.scanline, frame := h'.frame, vblank := h'.vblank,
                intLatch := h'.intLatch, screen := h'.screen }

end Sys2Proof.Slice0

open Sys2Proof Sys2Proof.Machine Sys2Proof.Slice0

/-! ### Encoding -/

/-- Command words of the spec's own examples (R99, R110, R111, V-LS-10, V-DE-12) and the eight phase codes (R93)
decode to what they stand for. -/
def Obligations.SpecWordsDecode : Prop :=
  decode (.command 0x1017000000000000) = .ok (.load .cpu (.token .vblank)) ∧
  decode (.command 0x201300000000007F) = .ok (.store .cpu (.token .scrollX) 0x7F) ∧
  decode (.command 0x1C1B00EFFF000000) = .ok (.load .presentation (.token (.screen 255 239))) ∧
  decode (.command 0x2820000000000002) = .ok (.store .cartridge (.token .intLatch) 2) ∧
  decode (.command 0x3400000000000000) = .ok (.step .driver) ∧
  decode (.command 0x4400000000000000) = .ok (.stepFrame .driver) ∧
  decode (.command 0x1010010000000000) = .ok (.load .cpu (.invalid 0x10010000)) ∧
  decode (.phase 0) = .ok .idleRender ∧ decode (.phase 1) = .ok .visible ∧
  decode (.phase 2) = .ok .prefetch ∧ decode (.phase 3) = .ok .postrender ∧
  decode (.phase 4) = .ok .enterVblank ∧ decode (.phase 5) = .ok .vblankIdle ∧
  decode (.phase 6) = .ok .exitVblank ∧ decode (.phase 7) = .ok .unreachable

/-- Decoding an encoded instruction gives it back, for every instruction with operands the decoder can give. -/
def Obligations.DecodeOfEncode : Prop :=
  ∀ i : Instr, CanonicalOperands i → decode (encode i) = .ok i

/-- Every word the decoder accepts is the encoding of what it decodes to: each legal word stands for one
instruction (D31), so no two words mean the same. -/
def Obligations.EncodeOfDecode : Prop :=
  ∀ (c : Code) (i : Instr), decode c = .ok i → encode i = c ∧ CanonicalOperands i

/-! ### The decode procedure (spec R91, decisions D2, D25, D31) -/

/-- A command word that fails one of checks 1 to 4 of R91 raises IllegalCommand with nothing performed. -/
def Obligations.IllFormedCommandsAbort : Prop :=
  ∀ (s : State) (w : CommandWord) (rest : List CommandWord),
    s.status = .running → s.commands = w :: rest → ¬ PassesCommandChecks w →
    step s = abortedBy { s with commands := rest } .illegalCommand w

/-- A LOAD or STORE that passes checks 1 to 4 and whose token word names no token (check 5) raises
InvalidAddress, whatever its value. -/
def Obligations.InvalidTokensAbort : Prop :=
  ∀ (s : State) (w : CommandWord) (rest : List CommandWord),
    s.status = .running → s.commands = w :: rest → PassesCommandChecks w → fieldOp w ≤ 2 → ¬ NamesToken w →
    step s = abortedBy { s with commands := rest } .invalidAddress w

/-- A STORE of a valid token whose value lies outside the token's type (check 6) raises TypeMismatch, also to the
latch while an NMI is pending (V-DE-22). -/
def Obligations.IllTypedStoresAbort : Prop :=
  ∀ (s : State) (w : CommandWord) (rest : List CommandWord),
    s.status = .running → s.commands = w :: rest → PassesCommandChecks w → fieldOp w = 2 → NamesToken w →
    valueBound s.params.frameWidth w ≤ fieldVal w →
    step s = abortedBy { s with commands := rest } .typeMismatch w

/-- A word that passes checks 1 to 6 is performed: it decodes to a well-formed instruction of its opcode, and the
step is `exec` of it with the word taken from the list. -/
def Obligations.WellFormedCommandsArePerformed : Prop :=
  ∀ (s : State) (w : CommandWord) (rest : List CommandWord),
    s.status = .running → s.commands = w :: rest → PassesCommandChecks w →
    (fieldOp w ≤ 2 → NamesToken w) →
    (fieldOp w = 2 → fieldVal w < valueBound s.params.frameWidth w) →
    ∃ i, decodeCommand w = .ok i ∧ i.wellFormed s.params.frameWidth = true ∧
      (match i with
        | .load ag _ => fieldOp w = 1 ∧ (encodeAgent ag).toNat = fieldAgent w
        | .store ag _ v => fieldOp w = 2 ∧ (encodeAgent ag).toNat = fieldAgent w ∧ v.toNat = fieldVal w
        | .step ag => fieldOp w = 3 ∧ (encodeAgent ag).toNat = fieldAgent w
        | .stepFrame ag => fieldOp w = 4 ∧ (encodeAgent ag).toNat = fieldAgent w
        | _ => False) ∧
      step s = exec i { s with commands := rest }

/-- When the next command word decodes, the step is `exec` of the instruction on the state with the word taken
from the list; nothing else is added around it. -/
def Obligations.StepRunsTheDecodedCommand : Prop :=
  ∀ (s : State) (w : CommandWord) (rest : List CommandWord) (i : Instr),
    s.status = .running → s.commands = w :: rest → decodeCommand w = .ok i →
    step s = exec i { s with commands := rest }

/-- With no command issued a running session's step leaves the state as it is (R218; log 1). -/
def Obligations.IdleSessionPersists : Prop :=
  ∀ s : State, s.status = .running → s.commands = [] → step s = .next s

/-! ### Faults -/

/-- In status aborted no command has a step, whatever the command: the outcome is the fault with its record, so the
status never returns to running (R203, decision D25). -/
def Obligations.AbortedSessionsHaveNoStep : Prop :=
  ∀ (s : State) (rec : FaultRecord), s.status = .aborted rec →
    step s = .fault (.sessionAborted rec) ∧ ∀ i, exec i s = .fault (.sessionAborted rec)

/-- Taking a fault is precise (R202, decision D25). When a step leaves the session aborted, the Hardware State is
the one before the command; for a STEP_FRAME it is the one after the STEPs that completed, fewer than a frame's, and
the next STEP body raises the recorded fault. -/
def Obligations.AbortIsPrecise : Prop :=
  ∀ (s t : State) (rec : FaultRecord), s.status = .running → step s = .next t → t.status = .aborted rec →
    t.result = none ∧ t.params = s.params ∧
    ∃ w rest, s.commands = w :: rest ∧ t.commands = rest ∧
      ((∀ ag, decodeCommand w ≠ .ok (.stepFrame ag)) → t.hw = s.hw) ∧
      (∀ ag, decodeCommand w = .ok (.stepFrame ag) →
        ∃ n, n < 89342 ∧ stepBodies s.params n s.hw = (t.hw, none) ∧ stepBody s.params t.hw = .error rec)

/-! ### LOAD and STORE -/

/-- LOAD of any valid token by any agent completes: it answers with the cell's encoded value and changes nothing
else (R110, R88, R92, decisions D4, D23). -/
def Obligations.LoadAnswersTheCell : Prop :=
  ∀ (s : State) (ag : Agent) (t : Token), s.status = .running →
    ∃ v : ValueField, v.toNat = cellNumber s.hw t ∧
      exec (.load ag (.token t)) s = .next { s with result := some v }

/-- R64: a LOAD returns the value of one cell and changes no state of the block, so it can be repeated; a STORE
changes its one cell, every other token reading as before, and a cartridge-mapped cell takes what the mapper gives. -/
def Obligations.AccessesTouchOneCell : Prop :=
  (∀ (s t : State) (ag : Agent) (tok : Token), s.status = .running →
    exec (.load ag (.token tok)) s = .next t →
    (∃ v, t.result = some v ∧ v.toNat = cellNumber s.hw tok) ∧
      t.hw = s.hw ∧ t.status = s.status ∧ t.params = s.params ∧ t.commands = s.commands ∧
      exec (.load ag (.token tok)) t = .next t) ∧
  (∀ (s t : State) (ag : Agent) (tok : Token) (v : ValueField), s.status = .running → s.Inv →
    exec (.store ag (.token tok) v) s = .next t →
    t.params = s.params ∧ t.commands = s.commands ∧
      (∀ other : Token, other ≠ tok → t.hw.load other = s.hw.load other) ∧
      (∀ a, tok = .cpuMem a → t.status = .running → (MapSpace.cpu, a.toNat) ∈ s.params.cartMapped →
        readByte t.hw.cpuMem a.toNat =
          Config.mapperStore .cpu a (readByte s.hw.cpuMem a.toNat) (BitVec.ofNat 8 v.toNat)) ∧
      (∀ a, tok = .ppuMem a → t.status = .running → (MapSpace.ppu, a.toNat) ∈ s.params.cartMapped →
        readByte t.hw.ppuMem a.toNat =
          Config.mapperStore .ppu a (readByte s.hw.ppuMem a.toNat) (BitVec.ofNat 8 v.toNat)))

/-- R112: LOAD and STORE of a valid token with a value of its type never fail, except a STORE that the latch
protocol forbids. -/
def Obligations.AccessesAreTotal : Prop :=
  ∀ (s : State) (ag : Agent) (t : Token), s.status = .running →
    (∃ u, exec (.load ag (.token t)) s = .next u ∧ u.status = .running) ∧
    (∀ v : ValueField, t.valueType.legal s.params.frameWidth v = true →
      ((t = .intLatch ∧ (v = 1 ∨ (s.hw.intLatch = .nmi ∧ ag ≠ .cpu))) ↔
        ¬ ∃ u, exec (.store ag (.token t) v) s = .next u ∧ u.status = .running))

/-- STORE of a value of its type to a CPU register writes it and nothing else (R111, R22, R23). -/
def Obligations.StoreWritesCpuRegisters : Prop :=
  ∀ (s : State) (ag : Agent) (v : ValueField), s.status = .running →
    (v.toNat < 2 ^ 8 →
      exec (.store ag (.token (.cpuReg .a)) v) s =
        .next { s with hw := { s.hw with cpuA := BitVec.ofNat 8 v.toNat }, result := none } ∧
      exec (.store ag (.token (.cpuReg .x)) v) s =
        .next { s with hw := { s.hw with cpuX := BitVec.ofNat 8 v.toNat }, result := none } ∧
      exec (.store ag (.token (.cpuReg .y)) v) s =
        .next { s with hw := { s.hw with cpuY := BitVec.ofNat 8 v.toNat }, result := none } ∧
      exec (.store ag (.token (.cpuReg .p)) v) s =
        .next { s with hw := { s.hw with cpuP := BitVec.ofNat 8 v.toNat }, result := none } ∧
      exec (.store ag (.token (.cpuReg .sp)) v) s =
        .next { s with hw := { s.hw with cpuSP := BitVec.ofNat 8 v.toNat }, result := none }) ∧
    (v.toNat < 2 ^ 16 →
      exec (.store ag (.token (.cpuReg .pc)) v) s =
        .next { s with hw := { s.hw with cpuPC := BitVec.ofNat 16 v.toNat }, result := none })

/-- STORE of a value of its type to a PPU register writes it and nothing else: any u16 to the counters (D30), no
NMI latched by NmiEnable or VBlank (R34, R250). -/
def Obligations.StoreWritesPpuRegisters : Prop :=
  ∀ (s : State) (ag : Agent) (v : ValueField), s.status = .running →
    (v.toNat < 2 ^ 8 →
      exec (.store ag (.token .scrollX) v) s =
        .next { s with hw := { s.hw with scrollX := BitVec.ofNat 8 v.toNat }, result := none } ∧
      exec (.store ag (.token .scrollY) v) s =
        .next { s with hw := { s.hw with scrollY := BitVec.ofNat 8 v.toNat }, result := none }) ∧
    (v.toNat < 2 ^ 16 →
      exec (.store ag (.token .cycle) v) s =
        .next { s with hw := { s.hw with cycle := BitVec.ofNat 16 v.toNat }, result := none } ∧
      exec (.store ag (.token .scanline) v) s =
        .next { s with hw := { s.hw with scanline := BitVec.ofNat 16 v.toNat }, result := none } ∧
      exec (.store ag (.token .nametableBase) v) s =
        .next { s with hw := { s.hw with nametableBase := BitVec.ofNat 16 v.toNat }, result := none } ∧
      exec (.store ag (.token .bgPatternBase) v) s =
        .next { s with hw := { s.hw with bgPatternBase := BitVec.ofNat 16 v.toNat }, result := none }) ∧
    (v.toNat < 2 ^ s.params.frameWidth →
      exec (.store ag (.token .frame) v) s =
        .next { s with hw := { s.hw with frame := v }, result := none }) ∧
    (v.toNat < 2 →
      exec (.store ag (.token .vblank) v) s =
        .next { s with hw := { s.hw with vblank := decide (v.toNat = 1) }, result := none } ∧
      exec (.store ag (.token .nmiEnable) v) s =
        .next { s with hw := { s.hw with nmiEnable := decide (v.toNat = 1) }, result := none })

/-- STORE of a byte to a cell of CPU, PPU or sprite memory completes: the cell then holds it, or what the mapper
gives for a cartridge-mapped cell of CPU or PPU memory (R68, D32; log 10), and every other cell and field is as
before. -/
def Obligations.StoreWritesMemoryCells : Prop :=
  ∀ (s : State) (ag : Agent) (v : ValueField) (a : Half) (i : Byte),
    s.status = .running → s.Inv → v.toNat < 2 ^ 8 →
    (∃ m, exec (.store ag (.token (.cpuMem a)) v) s =
        .next { s with hw := { s.hw with cpuMem := m }, result := none } ∧
      ((MapSpace.cpu, a.toNat) ∉ s.params.cartMapped → readByte m a.toNat = BitVec.ofNat 8 v.toNat) ∧
      ((MapSpace.cpu, a.toNat) ∈ s.params.cartMapped →
        readByte m a.toNat =
          Config.mapperStore .cpu a (readByte s.hw.cpuMem a.toNat) (BitVec.ofNat 8 v.toNat)) ∧
      ∀ b, b ≠ a.toNat → readByte m b = readByte s.hw.cpuMem b) ∧
    (∃ m, exec (.store ag (.token (.ppuMem a)) v) s =
        .next { s with hw := { s.hw with ppuMem := m }, result := none } ∧
      ((MapSpace.ppu, a.toNat) ∉ s.params.cartMapped → readByte m a.toNat = BitVec.ofNat 8 v.toNat) ∧
      ((MapSpace.ppu, a.toNat) ∈ s.params.cartMapped →
        readByte m a.toNat =
          Config.mapperStore .ppu a (readByte s.hw.ppuMem a.toNat) (BitVec.ofNat 8 v.toNat)) ∧
      ∀ b, b ≠ a.toNat → readByte m b = readByte s.hw.ppuMem b) ∧
    (∃ m, exec (.store ag (.token (.spriteMem i)) v) s =
        .next { s with hw := { s.hw with spriteMem := m }, result := none } ∧
      readByte m i.toNat = BitVec.ofNat 8 v.toNat ∧
      ∀ b, b ≠ i.toNat → readByte m b = readByte s.hw.spriteMem b)

/-- STORE of any triple to a screen cell completes: the cell holds it and every other pixel and field is as before
(R111, R88, R40; C8). -/
def Obligations.StoreWritesScreenCells : Prop :=
  ∀ (s : State) (ag : Agent) (v : ValueField) (x : Byte) (y : Fin 240), s.status = .running → s.Inv →
    ∃ m, exec (.store ag (.token (.screen x y)) v) s =
        .next { s with hw := { s.hw with screen := m }, result := none } ∧
      readPixel m x.toNat y.val =
        ⟨BitVec.ofNat 8 (v.toNat / 65536), BitVec.ofNat 8 (v.toNat / 256), BitVec.ofNat 8 v.toNat⟩ ∧
      ∀ x' y', x' < 256 → (x', y') ≠ (x.toNat, y.val) → readPixel m x' y' = readPixel s.hw.screen x' y'

/-- The latch protocol (R113, decision D22), for every latch value, agent and legal value: a STORE to IntLatch
aborts when it stores NMI, or when an NMI is pending and the agent is not the CPU; every other one writes the latch
and nothing else: the code 0 gives no request, any other the kind of its code (R38, R88). -/
def Obligations.LatchProtocolDecidesLatchStores : Prop :=
  ∀ (s : State) (ag : Agent) (v : ValueField), s.status = .running → v.toNat < 2 ^ 8 →
    ((v.toNat = 1 ∨ (s.hw.intLatch = .nmi ∧ ag ≠ .cpu)) →
      exec (.store ag (.token .intLatch) v) s =
        abortedBy s .latchProtocolViolation (commandWord 2 ag (Token.intLatch.word) v)) ∧
    (¬ (v.toNat = 1 ∨ (s.hw.intLatch = .nmi ∧ ag ≠ .cpu)) →
      exec (.store ag (.token .intLatch) v) s =
        .next { s with
          hw := { s.hw with intLatch := if v.toNat = 0 then .none else .other (BitVec.ofNat 8 v.toNat) },
          result := none })

/-- The issuing agent has no effect but in the latch check (R83, decision D23): any two agents' LOADs of a token,
legal STOREs to a token other than the latch, STEPs and STEP_FRAMEs have one outcome. -/
def Obligations.AgentMattersOnlyToTheLatch : Prop :=
  ∀ (s : State) (ag ag' : Agent) (t : Token) (v : ValueField),
    exec (.load ag (.token t)) s = exec (.load ag' (.token t)) s ∧
    (t ≠ .intLatch → t.valueType.legal s.params.frameWidth v = true →
      exec (.store ag (.token t) v) s = exec (.store ag' (.token t) v) s) ∧
    exec (.step ag) s = exec (.step ag') s ∧ exec (.stepFrame ag) s = exec (.stepFrame ag') s

/-! ### TICK, CLASSIFY and STEP -/

/-- CLASSIFY, phase by phase, on every pair of naturals (R131): the conditions that select each phase. -/
def Obligations.ClassifySelectsEachPhase : Prop :=
  ∀ s c : Nat,
    (classify s c = .visible ↔ s ≤ 239 ∧ 1 ≤ c ∧ c ≤ 256) ∧
    (classify s c = .prefetch ↔ s ≤ 239 ∧ 321 ≤ c ∧ c ≤ 336) ∧
    (classify s c = .idleRender ↔ s ≤ 239 ∧ (c = 0 ∨ (257 ≤ c ∧ c ≤ 320) ∨ 337 ≤ c)) ∧
    (classify s c = .postrender ↔ s = 240) ∧
    (classify s c = .enterVblank ↔ s = 241 ∧ c = 1) ∧
    (classify s c = .exitVblank ↔ s = 261 ∧ c = 1) ∧
    (classify s c = .vblankIdle ↔ 241 ≤ s ∧ s ≤ 261 ∧ ¬ (s = 241 ∧ c = 1) ∧ ¬ (s = 261 ∧ c = 1)) ∧
    (classify s c = .unreachable ↔ 262 ≤ s)

/-- A STEP to a position that is not Visible completes (R132, R130): the TICK (step 3 tested on every one, D8), and
on it the flags: at (241, 1) VBlank set and, with NmiEnable, NMI latched (R138); at (261, 1) VBlank cleared (R140);
elsewhere nothing more (R134, R136, R137, R139). -/
def Obligations.StepOffTheScreen : Prop :=
  ∀ (s : State) (ag : Agent), s.status = .running → s.params.wf →
    ¬ (nextScanline (scan s.hw) (cyc s.hw) ≤ 239 ∧ 1 ≤ nextCycle (cyc s.hw) ∧ nextCycle (cyc s.hw) ≤ 256) →
    ∃ h', Ticked s.params s.hw h' ∧
      (NextPosition s.hw 241 1 →
        exec (.step ag) s = .next { s with
          hw := { h' with vblank := true, intLatch := if s.hw.nmiEnable then .nmi else s.hw.intLatch },
          result := none }) ∧
      (NextPosition s.hw 261 1 →
        exec (.step ag) s = .next { s with hw := { h' with vblank := false }, result := none }) ∧
      (¬ NextPosition s.hw 241 1 → ¬ NextPosition s.hw 261 1 →
        exec (.step ag) s = .next { s with hw := h', result := none })

/-- A STEP to a Visible position whose own addresses are in range completes: the TICK, and the pixel (c - 1, s) of the
new position set to the pipeline's colour, of a palette byte below 0x40 or, under `mask6`, of any byte's low six bits
(R132, R135, R170, R179; decisions D9 to D12, D16). -/
def Obligations.StepOntoTheScreen : Prop :=
  ∀ (s : State) (ag : Agent), s.status = .running → s.params.wf →
    ∀ x y : Nat, NextPosition s.hw y (x + 1) → x < 256 → y < 240 → PixelFits s.hw x y →
    ppu s.hw (0x3F00 + pixelNumber s.hw x y) < 0x40 ∨ s.params.palettePolicy = .mask6 →
    ∃ h', Ticked s.params s.hw h' ∧
      exec (.step ag) s = .next { s with
        hw := rendered h' x y (ppu s.hw (0x3F00 + pixelNumber s.hw x y) % 0x40), result := none }

/-- One STEP is one TICK and then exactly the action of the phase CLASSIFY gives the new position (R94, R132,
decision D9): it is the meaning of that action on the ticked state, except that a fault leaves the Hardware State
before the TICK (R202). -/
def Obligations.StepDispatchesThePhaseAction : Prop :=
  ∀ (s : State) (ag : Agent), s.status = .running →
    ∃ u, exec (classify (scan (tick s.params s.hw)) (cyc (tick s.params s.hw))).instr
          { s with hw := tick s.params s.hw } = .next u ∧
      (u.status = .running → exec (.step ag) s = .next u) ∧
      (∀ rec, u.status = .aborted rec → exec (.step ag) s = .next { u with hw := s.hw })

/-- After a STEP that completes the position is in range, whatever it was before (R25, R26, R130), and no STEP or
STEP_FRAME raises InvariantViolation from any state (R132, R143). -/
def Obligations.PhaseSevenIsNeverReached : Prop :=
  ∀ (s t : State) (ag : Agent), s.status = .running →
    (exec (.step ag) s = .next t ∨ exec (.stepFrame ag) s = .next t) →
    (t.status = .running → t.hw.InRange) ∧
    ∀ rec, t.status = .aborted rec → rec.code = .ppuAddressOverflow ∨ rec.code = .paletteIndexRange

/-! ### The phase actions by themselves (log 13) -/

/-- IDLE_RENDER, PREFETCH, POSTRENDER and VBLANK_IDLE do nothing (R134, R136, R137, R139); that they do so at every
position, off the operands those rules give as well, is the model's choice (log 13). A STEP that reaches a position of
theirs is the TICK alone: the position, and the frame counter where the scanline wraps. -/
def Obligations.NoActionPhasesDoNothing : Prop :=
  ∀ (s : State), s.status = .running →
    exec .idleRender s = .next { s with result := none } ∧
    exec .prefetch s = .next { s with result := none } ∧
    exec .postrender s = .next { s with result := none } ∧
    exec .vblankIdle s = .next { s with result := none } ∧
    ∀ ag, s.params.wf → classify (nextScanline (scan s.hw) (cyc s.hw)) (nextCycle (cyc s.hw)) ∈
        [Phase.idleRender, .prefetch, .postrender, .vblankIdle] →
      ∃ h', Ticked s.params s.hw h' ∧ exec (.step ag) s = .next { s with hw := h', result := none }

/-- ENTER_VBLANK (R138): VBlank true; IntLatch NMI when NmiEnable is true, over whatever it held (decision D21),
and otherwise unchanged; nothing else changes. That it does so at every position, not at (241, 1) alone, is the model's
choice (log 13). -/
def Obligations.EnterVblankRaisesTheFlag : Prop :=
  ∀ (s : State), s.status = .running →
    (s.hw.nmiEnable = true →
      exec .enterVblank s =
        .next { s with hw := { s.hw with vblank := true, intLatch := .nmi }, result := none }) ∧
    (s.hw.nmiEnable = false →
      exec .enterVblank s = .next { s with hw := { s.hw with vblank := true }, result := none })

/-- EXIT_VBLANK (R140): VBlank false, regardless of NmiEnable; IntLatch and everything else unchanged. That it does so
at every position, not at (261, 1) alone, is the model's choice (log 13). The STEP that reaches (261, 1) takes this
action. -/
def Obligations.ExitVblankClearsTheFlag : Prop :=
  ∀ (s : State), s.status = .running →
    exec .exitVblank s = .next { s with hw := { s.hw with vblank := false }, result := none } ∧
    ∀ ag, NextPosition s.hw 261 1 →
      ∃ t, exec (.step ag) s = .next t ∧ t.status = .running ∧ t.hw.vblank = false ∧
        t.hw.intLatch = s.hw.intLatch ∧ t.hw.nmiEnable = s.hw.nmiEnable

/-- UNREACHABLE (R141): the fault InvariantViolation with the offending position in the record and as its info, the
Hardware State as it was; that it does so at every position is the model's choice (log 13). CLASSIFY gives the phase for
every scanline of 262 or more, and for no position that a TICK produces. -/
def Obligations.UnreachablePhaseAborts : Prop :=
  (∀ s : State, s.status = .running →
    exec .unreachable s =
      abortedHere s .invariantViolation (.position ⟨s.hw.scanline, s.hw.cycle⟩)) ∧
  (∀ l c : Nat, 262 ≤ l → (classify l c).instr = .unreachable) ∧
  ∀ (p : Params) (h : Hardware), (classify (scan (tick p h)) (cyc (tick p h))).instr ≠ .unreachable

/-- VISIBLE at a Visible position whose own addresses are in range, whatever the bases and the policies (R135, R170 to
R178; decisions D10, D11, D12, D15): with a palette byte below 0x40 the screen cell (c - 1, s) takes its colour, under
`mask6` the byte's low six bits select it (R179), and nothing else changes. -/
def Obligations.VisibleRendersThePixel : Prop :=
  ∀ (s : State), s.status = .running → VisibleAt s.hw → PixelFits s.hw (cyc s.hw - 1) (scan s.hw) →
    ppu s.hw (0x3F00 + pixelNumber s.hw (cyc s.hw - 1) (scan s.hw)) < 0x40 ∨ s.params.palettePolicy = .mask6 →
    exec .visible s = .next { s with
      hw := rendered s.hw (cyc s.hw - 1) (scan s.hw)
              (ppu s.hw (0x3F00 + pixelNumber s.hw (cyc s.hw - 1) (scan s.hw)) % 0x40),
      result := none }

/-- VISIBLE under `wrap16` (R178, decision D14): whatever the bases, every computed address is taken modulo 65536. The
palette byte so reached renders the pixel when it is below 0x40, or by its low six bits under `mask6`; of 0x40 or more
under the palette policy `fault` it raises PaletteIndexRange (R179, decision D16). -/
def Obligations.VisibleWrapsAddresses : Prop :=
  ∀ (s : State) (pi : Nat), s.status = .running → VisibleAt s.hw → s.params.overflowPolicy = .wrap16 →
    pi = wrappedPixelNumber s.hw (cyc s.hw - 1) (scan s.hw) →
    (ppu s.hw (0x3F00 + pi) < 0x40 ∨ s.params.palettePolicy = .mask6 →
      exec .visible s = .next { s with
        hw := rendered s.hw (cyc s.hw - 1) (scan s.hw) (ppu s.hw (0x3F00 + pi) % 0x40), result := none }) ∧
    (0x40 ≤ ppu s.hw (0x3F00 + pi) → s.params.palettePolicy = .fault →
      exec .visible s =
        abortedHere s .paletteIndexRange (.palette (readByte s.hw.ppuMem (0x3F00 + pi)) pi))

/-- VISIBLE at a Visible position raises the first fault in the order of R180 (decisions D14, D16, D33): the
nametable, plane 0, plane 1 and attribute addresses above 0xFFFF under `fault`, in this order, and last a palette
byte of 0x40 or more under `fault`. The Hardware State is as it was. -/
def Obligations.VisibleRaisesTheFirstFault : Prop :=
  ∀ (s : State) (sx sy ntb pb tile : Nat), s.status = .running → VisibleAt s.hw →
    sx = scrollOfX s.hw (cyc s.hw - 1) → sy = scrollOfY s.hw (scan s.hw) →
    ntb = s.hw.nametableBase.toNat → pb = s.hw.bgPatternBase.toNat → tile = ppu s.hw (tileAddress ntb sx sy) →
    (s.params.overflowPolicy = .fault →
      (0xFFFF < tileAddress ntb sx sy →
        exec .visible s = abortedHere s .ppuAddressOverflow (.address (tileAddress ntb sx sy))) ∧
      (tileAddress ntb sx sy ≤ 0xFFFF → 0xFFFF < planeAddress pb tile sy →
        exec .visible s = abortedHere s .ppuAddressOverflow (.address (planeAddress pb tile sy))) ∧
      (tileAddress ntb sx sy ≤ 0xFFFF → planeAddress pb tile sy ≤ 0xFFFF →
        0xFFFF < planeAddress pb tile sy + 8 →
        exec .visible s = abortedHere s .ppuAddressOverflow (.address (planeAddress pb tile sy + 8))) ∧
      (tileAddress ntb sx sy ≤ 0xFFFF → planeAddress pb tile sy + 8 ≤ 0xFFFF →
        0xFFFF < groupAddress ntb sx sy →
        exec .visible s = abortedHere s .ppuAddressOverflow (.address (groupAddress ntb sx sy)))) ∧
    (s.params.palettePolicy = .fault → tileAddress ntb sx sy ≤ 0xFFFF → planeAddress pb tile sy + 8 ≤ 0xFFFF →
      groupAddress ntb sx sy ≤ 0xFFFF →
      0x40 ≤ ppu s.hw (0x3F00 + paletteNumber (ppu s.hw) ntb pb sx sy) →
      exec .visible s = abortedHere s .paletteIndexRange
        (.palette (readByte s.hw.ppuMem (0x3F00 + paletteNumber (ppu s.hw) ntb pb sx sy))
          (paletteNumber (ppu s.hw) ntb pb sx sy)))

/-- VISIBLE away from a Visible position has no Coordinate to render (R135's operands) and is refused by name: the
model's choice (log 13). No STEP dispatches it there. -/
def Obligations.VisibleNeedsACoordinate : Prop :=
  ∀ s : State, s.status = .running → ¬ VisibleAt s.hw → exec .visible s = .refused .noCoordinate

/-- A pixel depends only on the position, the four registers, PPU memory and the parameters (R181): two states that
agree on them and on the screen get the same screen and status, whatever else differs. -/
def Obligations.PixelDependsOnlyOnItsInputs : Prop :=
  ∀ (s s' t t' : State), s.status = .running → s'.status = .running → s.params = s'.params →
    s.hw.cycle = s'.hw.cycle → s.hw.scanline = s'.hw.scanline → s.hw.scrollX = s'.hw.scrollX →
    s.hw.scrollY = s'.hw.scrollY → s.hw.nametableBase = s'.hw.nametableBase →
    s.hw.bgPatternBase = s'.hw.bgPatternBase → (∀ a, ppu s.hw a = ppu s'.hw a) →
    s.hw.screen = s'.hw.screen → exec .visible s = .next t → exec .visible s' = .next t' →
    t.hw.screen = t'.hw.screen ∧ t.status = t'.status

/-- A vertical scroll of 240 to 255 acts like that value less 240 (R30, R172, decision D13): the same screen and
the same status after VISIBLE. -/
def Obligations.VerticalScrollWrapsAt240 : Prop :=
  ∀ (s t t' : State) (v : Byte), s.status = .running → s.hw.scrollY = v → 240 ≤ v.toNat →
    exec .visible s = .next t →
    exec .visible { s with hw := { s.hw with scrollY := v - 240 } } = .next t' →
    t'.hw.screen = t.hw.screen ∧ t'.status = t.status

/-! ### Frames and whole-machine rules -/

/-- What STEP, STEP_FRAME and every phase action leave alone (R45): the CPU registers and CPU memory, sprite memory,
PPU memory, the scroll and base registers and NmiEnable; also the parameters and the pending commands. -/
def Obligations.EngineWritesOnlyItsTokens : Prop :=
  ∀ (s t : State) (i : Instr), (∀ ag r, i ≠ .load ag r) → (∀ ag r v, i ≠ .store ag r v) →
    exec i s = .next t → EngineLeaves s.hw t.hw ∧ t.params = s.params ∧ t.commands = s.commands

/-- What a STEP writes beside the counters (R33, R37, R138, R140): VBlank only at (241, 1) and (261, 1), and no
pixel but that of a Visible position, which no other pixel of the screen follows. -/
def Obligations.StepWritesFlagsAndOnePixel : Prop :=
  ∀ (s t : State) (ag : Agent), s.status = .running → exec (.step ag) s = .next t → t.status = .running →
    (NextPosition s.hw 241 1 → t.hw.vblank = true) ∧
    (NextPosition s.hw 261 1 → t.hw.vblank = false) ∧
    (¬ NextPosition s.hw 241 1 → ¬ NextPosition s.hw 261 1 → t.hw.vblank = s.hw.vblank) ∧
    (∀ x y, x < 256 → ¬ NextPosition s.hw y (x + 1) → readPixel t.hw.screen x y = readPixel s.hw.screen x y)

/-- R206: a STEP latches NMI when it enters vertical blank at (241, 1) with NmiEnable true, and a STEP_FRAME when one
of its STEPs does; otherwise both leave the latch, a pending NMI among the rest. No other step of the machine makes the
latch hold NMI when it did not. -/
def Obligations.EnteringVblankIsTheOnlyNmiSource : Prop :=
  (∀ (s t : State) (ag : Agent), s.status = .running → exec (.step ag) s = .next t → t.status = .running →
    (NextPosition s.hw 241 1 → s.hw.nmiEnable = true → t.hw.intLatch = .nmi) ∧
    (¬ (NextPosition s.hw 241 1 ∧ s.hw.nmiEnable = true) → t.hw.intLatch = s.hw.intLatch)) ∧
  (∀ (s t : State) (ag : Agent), s.status = .running → exec (.stepFrame ag) s = .next t →
    (FrameEntersVblank s → s.hw.nmiEnable = true → t.hw.intLatch = .nmi) ∧
    (¬ (FrameEntersVblank s ∧ s.hw.nmiEnable = true) → t.hw.intLatch = s.hw.intLatch)) ∧
  (∀ s t : State, step s = .next t → t.hw.intLatch = .nmi → s.hw.intLatch ≠ .nmi →
    s.hw.nmiEnable = true ∧
    ∃ w rest ag, s.commands = w :: rest ∧
      ((decodeCommand w = .ok (.step ag) ∧ NextPosition s.hw 241 1) ∨
        (decodeCommand w = .ok (.stepFrame ag) ∧ FrameEntersVblank s)))

/-- R33: VBlank becomes true at a STEP to (241, 1) and false at one to (261, 1); no other action of a STEP writes it. A
STORE writes it, a LOAD answers it and leaves it, a new session has it false. No STEP or STEP_FRAME reads it: with
another value before, everything else comes out the same. -/
def Obligations.VblankIsWrittenAtItsTwoPositions : Prop :=
  (∀ (s t : State) (ag : Agent), s.status = .running → exec (.step ag) s = .next t → t.status = .running →
    (t.hw.vblank = true ↔ NextPosition s.hw 241 1 ∨ (s.hw.vblank = true ∧ ¬ NextPosition s.hw 261 1))) ∧
  (∀ (s : State) (ag : Agent), s.status = .running →
    exec (.store ag (.token .vblank) 0) s = .next { s with hw := { s.hw with vblank := false }, result := none } ∧
    exec (.store ag (.token .vblank) 1) s = .next { s with hw := { s.hw with vblank := true }, result := none } ∧
    exec (.load ag (.token .vblank)) s = .next { s with result := some (if s.hw.vblank then 1 else 0) }) ∧
  (∀ (p : Params) (screenInit : List (Nat × Color)) (img : InitImage),
    (sessionState p screenInit img).hw.vblank = false) ∧
  (∀ (s t t' : State) (ag : Agent) (i : Instr) (b : Bool), s.status = .running →
    i = .step ag ∨ i = .stepFrame ag → exec i s = .next t →
    exec i { s with hw := { s.hw with vblank := b } } = .next t' →
    t' = { t with hw := { t.hw with vblank := t'.hw.vblank } })

/-- The handoff (R207, decision D22), over every step of the machine: a pending NMI ends only by a STORE to IntLatch
that the CPU engine issues. -/
def Obligations.OnlyTheCpuEndsAPendingNmi : Prop :=
  ∀ s t : State, step s = .next t → s.hw.intLatch = .nmi → t.hw.intLatch ≠ .nmi →
    ∃ w rest v, s.commands = w :: rest ∧ decodeCommand w = .ok (.store .cpu (.token .intLatch) v)

/-- No step changes the parameters, and a step takes at most the first pending command (R7, R70; log 1, 4). -/
def Obligations.StepsTakeOneCommand : Prop :=
  ∀ s t : State, step s = .next t → t.params = s.params ∧ t.commands = s.commands.tail

/-- A scanline (R133): 341 STEP commands that all complete, from a position in range, leave the cycle as it was and
advance the scanline by 1 modulo 262; the frame counter advances exactly when the scanline wraps. -/
def Obligations.ScanlineTakes341Steps : Prop :=
  ∀ (s t : State) (rest : List CommandWord), s.status = .running → s.Inv → s.hw.InRange →
    s.commands = List.replicate 341 0x3400000000000000 ++ rest →
    Host.Core.run Sys2Proof.core 341 s = .next t → t.status = .running →
    t.commands = rest ∧ cyc t.hw = cyc s.hw ∧ scan t.hw = (scan s.hw + 1) % 262 ∧
      (scan s.hw = 261 → t.hw.frame.toNat = (s.hw.frame.toNat + 1) % 2 ^ s.params.frameWidth) ∧
      (scan s.hw ≠ 261 → t.hw.frame = s.hw.frame)

/-- The first STEPs of a session (R133, R242, R138, R140): from the reset position with VBlank false, whatever the
memories hold, up to 7162 STEPs complete. The n-th leaves the position n cycles on; VBlank is true from the second to
the one before the 6822nd; with NmiEnable the second latches NMI; no pixel is rendered; the frame counter advances at
the 7162nd, which reaches (0, 0). -/
def Obligations.FirstFrameTimeline : Prop :=
  ∀ (s : State) (rest : List CommandWord) (n : Nat), s.status = .running → s.Inv → scan s.hw = 240 →
    cyc s.hw = 340 → s.hw.vblank = false → n ≤ 7162 →
    s.commands = List.replicate n 0x3400000000000000 ++ rest →
    ∃ t, Host.Core.run Sys2Proof.core n s = .next t ∧ t.status = .running ∧ t.commands = rest ∧
      cyc t.hw ≤ 340 ∧ scan t.hw * 341 + cyc t.hw = (240 * 341 + 340 + n) % 89342 ∧
      (t.hw.vblank = true ↔ 2 ≤ n ∧ n < 6822) ∧
      t.hw.intLatch = (if s.hw.nmiEnable = true ∧ 2 ≤ n then .nmi else s.hw.intLatch) ∧
      t.hw.screen = s.hw.screen ∧
      t.hw.frame.toNat =
        (if n = 7162 then (s.hw.frame.toNat + 1) % 2 ^ s.params.frameWidth else s.hw.frame.toNat)

/-- A frame (R133, R142): a STEP_FRAME that completes from a position in range leaves the position as it was and
advances the frame counter by 1 modulo 2^W. It enters vertical blank once and leaves it once: the latch holds NMI
if NmiEnable is true, and VBlank is true exactly where the position lies from (241, 1) to (261, 0). -/
def Obligations.FrameReturnsToItsPosition : Prop :=
  ∀ (s t : State) (ag : Agent), s.status = .running → s.Inv → s.hw.InRange →
    exec (.stepFrame ag) s = .next t → t.status = .running →
    t.hw.cycle = s.hw.cycle ∧ t.hw.scanline = s.hw.scanline ∧
      t.hw.frame.toNat = (s.hw.frame.toNat + 1) % 2 ^ s.params.frameWidth ∧
      t.hw.intLatch = (if s.hw.nmiEnable then .nmi else s.hw.intLatch) ∧
      (t.hw.vblank = true ↔
        241 * 341 + 1 ≤ scan s.hw * 341 + cyc s.hw ∧ scan s.hw * 341 + cyc s.hw ≤ 261 * 341)

/-- STEP_FRAME is 89342 STEPs (R142, R99, decision D24): when it completes, that many `step` commands end in the
same state. -/
def Obligations.StepFrameIsAFrameOfSteps : Prop :=
  ∀ (s t : State) (ag : Agent) (rest : List CommandWord), s.status = .running →
    s.commands = List.replicate 89342 0x3400000000000000 ++ rest →
    exec (.stepFrame ag) { s with commands := rest } = .next t → t.status = .running →
    Host.Core.run Sys2Proof.core 89342 s = .next t

/-- A whole frame is rendered (R133, R142, R170): from any running state whose bases are in range and whose 16
palette bytes are below 0x40 (R243), STEP_FRAME completes and every pixel of the screen then holds the pipeline's
colour for the registers and memory of the start. -/
def Obligations.StepFrameRendersEveryPixel : Prop :=
  ∀ (s : State) (ag : Agent), s.status = .running → s.Inv → BasesFit s.hw →
    (∀ i, i < 16 → ppu s.hw (0x3F00 + i) < 0x40) →
    ∃ t, exec (.stepFrame ag) s = .next t ∧ t.status = .running ∧ t.result = none ∧
      EngineLeaves s.hw t.hw ∧ t.params = s.params ∧ t.commands = s.commands ∧
      ∀ x y, x < 256 → y < 240 →
        readPixel t.hw.screen x y = hardwareColor (ppu s.hw (0x3F00 + pixelNumber s.hw x y))

/-- The black frame (R183; C9, W10): with the 1024 bytes at the nametable base and tile 0's planes all 0 and palette
entry 0 equal to 0x0F, whatever the scroll and the other palette entries, a frame completes with every pixel black
(decision D18). -/
def Obligations.BlackFrame : Prop :=
  ∀ (s : State) (ag : Agent), s.status = .running → s.Inv → BasesFit s.hw →
    (∀ i, i < 0x400 → ppu s.hw (s.hw.nametableBase.toNat + i) = 0) →
    (∀ i, i < 16 → ppu s.hw (s.hw.bgPatternBase.toNat + i) = 0) → ppu s.hw 0x3F00 = 0x0F →
    ∃ t, exec (.stepFrame ag) s = .next t ∧ t.status = .running ∧
      ∀ x y, x < 256 → y < 240 → readPixel t.hw.screen x y = ⟨0, 0, 0⟩

/-- The picture does not depend on NmiEnable (R181, W11): two runs of a frame that differ only in it end with the
same status and the same Hardware State but for NmiEnable and IntLatch. -/
def Obligations.PictureIgnoresNmiEnable : Prop :=
  ∀ (s t t' : State) (ag : Agent) (b : Bool), s.status = .running →
    exec (.stepFrame ag) s = .next t →
    exec (.stepFrame ag) { s with hw := { s.hw with nmiEnable := b } } = .next t' →
    t'.status = t.status ∧
      t'.hw = { t.hw with nmiEnable := t'.hw.nmiEnable, intLatch := t'.hw.intLatch }

/-! ### Sessions and the invariant -/

/-- Session creation (R240, R204; decisions D19, D20, D29; log 11): a cartridge that passes its check gives the
running session of its image; any other gives MalformedInput and no session. The session of any image has the spec's
reset values and the image's registers. A cell the image lists once below the memory's size holds the listed value,
and a cell it does not list reads as the unlisted byte or colour (log 7, 8). -/
def Obligations.SessionCreation : Prop :=
  ∀ (p : Params) (screenInit : List (Nat × Color)),
    (∀ cart : Cartridge, createSession p screenInit cart =
      if Config.cartValid cart then .next (sessionState p screenInit (Config.initImage cart))
      else .fault (.sessionNotCreated ⟨.malformedInput, none, .none⟩)) ∧
    ∀ (img : InitImage) (s : State), s = sessionState p screenInit img →
      s.status = .running ∧ s.params = p ∧ s.commands = [] ∧
      s.hw.cycle = 340 ∧ s.hw.scanline = 240 ∧ s.hw.frame = 0 ∧ s.hw.vblank = false ∧
      s.hw.scrollX = 0 ∧ s.hw.scrollY = 0 ∧ s.hw.nametableBase = 0x2000 ∧ s.hw.bgPatternBase = 0 ∧
      s.hw.nmiEnable = false ∧ s.hw.intLatch = .none ∧
      s.hw.cpuA = img.a ∧ s.hw.cpuX = img.x ∧ s.hw.cpuY = img.y ∧ s.hw.cpuP = img.p ∧ s.hw.cpuSP = img.sp ∧
      s.hw.cpuPC = img.pc ∧
      (∀ a v, (a, v) ∈ img.cpuMem → a < 65536 → (∀ v', (a, v') ∈ img.cpuMem → v' = v) →
        readByte s.hw.cpuMem a = v) ∧
      (∀ a v, (a, v) ∈ img.ppuMem → a < 65536 → (∀ v', (a, v') ∈ img.ppuMem → v' = v) →
        readByte s.hw.ppuMem a = v) ∧
      (∀ a v, (a, v) ∈ img.spriteMem → a < 256 → (∀ v', (a, v') ∈ img.spriteMem → v' = v) →
        readByte s.hw.spriteMem a = v) ∧
      (∀ x y v, x < 256 → y < 240 → (256 * y + x, v) ∈ screenInit →
        (∀ v', (256 * y + x, v') ∈ screenInit → v' = v) → readPixel s.hw.screen x y = v) ∧
      (∀ a, (∀ v, (a, v) ∉ img.cpuMem) → readByte s.hw.cpuMem a = unlistedByte) ∧
      (∀ a, (∀ v, (a, v) ∉ img.ppuMem) → readByte s.hw.ppuMem a = unlistedByte) ∧
      (∀ a, (∀ v, (a, v) ∉ img.spriteMem) → readByte s.hw.spriteMem a = unlistedByte) ∧
      (∀ x y, (∀ v, (256 * y + x, v) ∉ screenInit) → readPixel s.hw.screen x y = unlistedColor)

/-- The reset state is the session of the blank image in the reference configuration (R240, R7; log 6 to 9), with
the values the source gives: cycle 340, scanline 240, VBlank false, every counter else zero. -/
def Obligations.ResetIsABlankSession : Prop :=
  State.reset = sessionState Params.reference [] InitImage.blank ∧
    State.reset.hw.cycle = 340 ∧ State.reset.hw.scanline = 240 ∧ State.reset.hw.frame = 0 ∧
    State.reset.hw.vblank = false ∧ State.reset.status = .running

/-- The invariant holds at reset. -/
def Obligations.InvariantAtReset : Prop := State.reset.Inv

/-- The invariant holds at every session's creation, whatever the image and the screen contents. -/
def Obligations.InvariantAtCreation : Prop :=
  ∀ (p : Params) (screenInit : List (Nat × Color)) (img : InitImage), p.wf → (sessionState p screenInit img).Inv

/-- Every step keeps the invariant: canonical memories within their sizes (R60), the frame counter within its width
(R27), the latch one of its values (R38), and a fault record of a form that R200 and R201 give. -/
def Obligations.StepsKeepTheInvariant : Prop :=
  ∀ s t : State, s.Inv → step s = .next t → t.Inv
end

