-- ==== Sys2Proof/Laws/Decode.lean ====
section
/-! SUPPORT. The fields of an encoded word read back as they were put in. -/

namespace Sys2Proof

/-! ### Fields of a command word -/

@[simp] theorem opField_commandWord (op : BitVec 4) (ag : Agent) (t : TokenWord) (v : ValueField) :
    opField (commandWord op ag t v) = op := by
  ext i hi
  simp only [opField, commandWord, BitVec.getElem_extractLsb', BitVec.getLsbD_append]
  rw [← BitVec.getLsbD_eq_getElem]
  simp only [show ¬ 60 + i < 24 by omega, show ¬ 60 + i - 24 < 32 by omega,
    show ¬ 60 + i - 24 - 32 < 2 by omega, show ¬ 60 + i - 24 - 32 - 2 < 2 by omega, ↓reduceIte]
  congr 1; omega

@[simp] theorem agField_commandWord (op : BitVec 4) (ag : Agent) (t : TokenWord) (v : ValueField) :
    agField (commandWord op ag t v) = encodeAgent ag := by
  ext i hi
  simp only [agField, commandWord, BitVec.getElem_extractLsb', BitVec.getLsbD_append]
  rw [← BitVec.getLsbD_eq_getElem]
  simp only [show ¬ 58 + i < 24 by omega, show ¬ 58 + i - 24 < 32 by omega,
    show ¬ 58 + i - 24 - 32 < 2 by omega, show 58 + i - 24 - 32 - 2 < 2 by omega, ↓reduceIte]
  congr 1; omega

@[simp] theorem rsvField_commandWord (op : BitVec 4) (ag : Agent) (t : TokenWord) (v : ValueField) :
    rsvField (commandWord op ag t v) = 0#2 := by
  ext i hi
  simp only [rsvField, commandWord, BitVec.getElem_extractLsb', BitVec.getLsbD_append]
  rw [← BitVec.getLsbD_eq_getElem]
  simp only [show ¬ 56 + i < 24 by omega, show ¬ 56 + i - 24 < 32 by omega,
    show 56 + i - 24 - 32 < 2 by omega, ↓reduceIte]
  congr 1; omega

@[simp] theorem tokField_commandWord (op : BitVec 4) (ag : Agent) (t : TokenWord) (v : ValueField) :
    tokField (commandWord op ag t v) = t := by
  ext i hi
  simp only [tokField, commandWord, BitVec.getElem_extractLsb', BitVec.getLsbD_append]
  rw [← BitVec.getLsbD_eq_getElem]
  simp only [show ¬ 24 + i < 24 by omega, show 24 + i - 24 < 32 by omega, ↓reduceIte]
  congr 1; omega

@[simp] theorem valField_commandWord (op : BitVec 4) (ag : Agent) (t : TokenWord) (v : ValueField) :
    valField (commandWord op ag t v) = v := by
  ext i hi
  simp only [valField, commandWord, BitVec.getElem_extractLsb', BitVec.getLsbD_append]
  rw [← BitVec.getLsbD_eq_getElem]
  simp only [show 0 + i < 24 by omega, ↓reduceIte]
  congr 1; omega

/-! ### Fields of a token word -/

@[simp] theorem kindField_word (t : Token) : kindField t.word = t.kind := by
  ext i hi
  simp only [kindField, Token.word, BitVec.getElem_extractLsb', BitVec.getLsbD_append]
  rw [← BitVec.getLsbD_eq_getElem]
  simp only [show ¬ 24 + i < 16 by omega, show ¬ 24 + i - 16 < 8 by omega, ↓reduceIte]
  congr 1; omega

@[simp] theorem tzField_word (t : Token) : tzField t.word = 0#8 := by
  ext i hi
  simp only [tzField, Token.word, BitVec.getElem_extractLsb', BitVec.getLsbD_append]
  rw [← BitVec.getLsbD_eq_getElem]
  simp only [show ¬ 16 + i < 16 by omega, show 16 + i - 16 < 8 by omega, ↓reduceIte]
  congr 1; omega

@[simp] theorem indexField_word (t : Token) : indexField t.word = t.index := by
  ext i hi
  simp only [indexField, Token.word, BitVec.getElem_extractLsb', BitVec.getLsbD_append]
  rw [← BitVec.getLsbD_eq_getElem]
  simp only [show 0 + i < 16 by omega, ↓reduceIte]
  congr 1; omega

/-! ### Agents and registers -/

@[simp] theorem decodeAgent_encodeAgent (ag : Agent) : decodeAgent (encodeAgent ag) = ag := by
  cases ag <;> rfl

@[simp] theorem encodeAgent_decodeAgent (a : BitVec 2) : encodeAgent (decodeAgent a) = a := by
  revert a; decide

@[simp] theorem decodeCpuReg_encodeCpuReg (r : CpuReg) : decodeCpuReg (encodeCpuReg r) = some r := by
  cases r <;> rfl

/-- A register number in the range of R86 encodes back to itself. -/
theorem encodeCpuReg_of_decodeCpuReg {n : Half} {r : CpuReg} (h : decodeCpuReg n = some r) :
    encodeCpuReg r = n := by
  unfold decodeCpuReg at h
  repeat' split at h
  all_goals first
    | (cases h; next hn => exact hn.symm)
    | cases h

/-! ### Two-byte indexes -/

theorem low_append (a b : Byte) : (a ++ b : Half).extractLsb' 0 8 = b := by
  ext i hi
  simp only [BitVec.getElem_extractLsb', BitVec.getLsbD_append]
  rw [← BitVec.getLsbD_eq_getElem]
  simp only [show 0 + i < 8 by omega, ↓reduceIte]
  congr 1; omega

theorem high_append (a b : Byte) : (a ++ b : Half).extractLsb' 8 8 = a := by
  ext i hi
  simp only [BitVec.getElem_extractLsb', BitVec.getLsbD_append]
  rw [← BitVec.getLsbD_eq_getElem]
  simp only [show ¬ 8 + i < 8 by omega, ↓reduceIte]
  congr 1; omega

theorem append_halves (n : Half) : n.extractLsb' 8 8 ++ n.extractLsb' 0 8 = n := by
  ext i hi
  rw [← BitVec.getLsbD_eq_getElem, BitVec.getLsbD_append]
  simp only [BitVec.getLsbD_extractLsb', Nat.zero_add]
  split
  · next h => simp [h, BitVec.getLsbD_eq_getElem hi]
  · next h =>
    have h8 : i - 8 < 8 := by omega
    simp [h8, BitVec.getLsbD_eq_getElem hi, show 8 + (i - 8) = i by omega]

/-! ### Phases -/

@[simp] theorem decodePhase_code (ph : Phase) : decodePhase ph.code = ph := by cases ph <;> rfl

@[simp] theorem code_decodePhase (c : BitVec 3) : (decodePhase c).code = c := by revert c; decide

end Sys2Proof
end

