-- ==== Sys2Proof/Laws/Memory.lean ====
section
/-! SUPPORT. The laws of cells: read after write, and the canonical form. -/

namespace Sys2Proof.Machine

variable {α : Type} [DecidableEq α]

/-! ### Read after write -/

/-- Below its first address a canonical list reads as unlisted. -/
theorem readCell_below {d : α} {size lo a : Nat} {m : List (Nat × α)} (h : cellsWf d size lo m = true)
    (ha : a < lo) : readCell d m a = d := by
  induction m generalizing lo with
  | nil => rfl
  | cons c m ih =>
    obtain ⟨b, v⟩ := c
    simp only [cellsWf, Bool.and_eq_true, decide_eq_true_eq] at h
    rw [readCell, if_neg (by omega)]
    exact ih h.2 (by omega)

theorem readCell_consCell_same {d : α} {size a : Nat} {m : List (Nat × α)} (v : α)
    (h : cellsWf d size (a + 1) m = true) : readCell d (consCell d a v m) a = v := by
  unfold consCell
  split
  · next hv => rw [readCell_below h (by omega), hv]
  · simp [readCell]

theorem readCell_consCell_other {d : α} {a b : Nat} (m : List (Nat × α)) (v : α) (h : b ≠ a) :
    readCell d (consCell d a v m) b = readCell d m b := by
  unfold consCell
  split
  · rfl
  · simp [readCell, h]

/-- A read after a write of the same cell gives the value written. -/
theorem readCell_writeCell_same {d : α} {size lo : Nat} {m : List (Nat × α)} (a : Nat) (v : α)
    (h : cellsWf d size lo m = true) : readCell d (writeCell d m a v) a = v := by
  induction m generalizing lo with
  | nil => exact readCell_consCell_same (size := size) v rfl
  | cons c m ih =>
    obtain ⟨b, w⟩ := c
    simp only [cellsWf, Bool.and_eq_true, decide_eq_true_eq] at h
    rw [writeCell]
    split
    · next hlt =>
      refine readCell_consCell_same (size := size) v ?_
      simp only [cellsWf, Bool.and_eq_true, decide_eq_true_eq]
      exact ⟨⟨⟨by omega, h.1.1.2⟩, h.1.2⟩, h.2⟩
    · split
      · next heq => subst heq; exact readCell_consCell_same v h.2
      · next hne => rw [readCell, if_neg hne]; exact ih h.2

/-- A write leaves every other cell alone, whatever the list. -/
theorem readCell_writeCell_other {d : α} (m : List (Nat × α)) {a b : Nat} (v : α) (h : b ≠ a) :
    readCell d (writeCell d m a v) b = readCell d m b := by
  induction m with
  | nil => exact readCell_consCell_other [] v h
  | cons c m ih =>
    obtain ⟨k, w⟩ := c
    rw [writeCell]
    split
    · exact readCell_consCell_other _ v h
    · split
      · next heq =>
        subst heq
        rw [readCell_consCell_other m v h, readCell, if_neg h]
      · rw [readCell, readCell, ih]

/-! ### The canonical form -/

theorem cellsWf_mono {d : α} {size lo lo' : Nat} {m : List (Nat × α)} (h : cellsWf d size lo m = true)
    (hlo : lo' ≤ lo) : cellsWf d size lo' m = true := by
  cases m with
  | nil => rfl
  | cons c m =>
    obtain ⟨b, w⟩ := c
    simp only [cellsWf, Bool.and_eq_true, decide_eq_true_eq] at h ⊢
    exact ⟨⟨⟨by omega, h.1.1.2⟩, h.1.2⟩, h.2⟩

theorem cellsWf_consCell {d : α} {size lo a : Nat} {m : List (Nat × α)} (v : α)
    (h : cellsWf d size (a + 1) m = true) (hlo : lo ≤ a) (ha : a < size) :
    cellsWf d size lo (consCell d a v m) = true := by
  unfold consCell
  split
  · exact cellsWf_mono h (by omega)
  · next hv =>
    simp only [cellsWf, Bool.and_eq_true, decide_eq_true_eq]
    exact ⟨⟨⟨hlo, ha⟩, hv⟩, h⟩

/-- A write keeps the canonical form. -/
theorem cellsWf_writeCell {d : α} {size lo : Nat} {m : List (Nat × α)} {a : Nat} (v : α)
    (h : cellsWf d size lo m = true) (hlo : lo ≤ a) (ha : a < size) :
    cellsWf d size lo (writeCell d m a v) = true := by
  induction m generalizing lo with
  | nil => exact cellsWf_consCell v rfl hlo ha
  | cons c m ih =>
    obtain ⟨b, w⟩ := c
    simp only [cellsWf, Bool.and_eq_true, decide_eq_true_eq] at h
    rw [writeCell]
    split
    · next hlt =>
      refine cellsWf_consCell v ?_ hlo ha
      simp only [cellsWf, Bool.and_eq_true, decide_eq_true_eq]
      exact ⟨⟨⟨by omega, h.1.1.2⟩, h.1.2⟩, h.2⟩
    · split
      · next heq => subst heq; exact cellsWf_consCell v h.2 hlo ha
      · next hlt hne =>
        simp only [cellsWf, Bool.and_eq_true, decide_eq_true_eq]
        exact ⟨⟨⟨h.1.1.1, h.1.1.2⟩, h.1.2⟩, ih h.2 (by omega)⟩

/-- Two canonical lists that read alike everywhere are equal. -/
theorem eq_of_readCell_eq {d : α} {size lo : Nat} {m n : List (Nat × α)} (hm : cellsWf d size lo m = true)
    (hn : cellsWf d size lo n = true) (h : ∀ a, readCell d m a = readCell d n a) : m = n := by
  induction m generalizing lo n with
  | nil =>
    cases n with
    | nil => rfl
    | cons c n =>
      obtain ⟨b, w⟩ := c
      simp only [cellsWf, Bool.and_eq_true, decide_eq_true_eq] at hn
      have := h b
      simp only [readCell, if_true] at this
      exact absurd this.symm hn.1.2
  | cons c m ih =>
    obtain ⟨a, v⟩ := c
    have hmc := hm
    simp only [cellsWf, Bool.and_eq_true, decide_eq_true_eq] at hm
    cases n with
    | nil =>
      have := h a
      simp only [readCell, if_true] at this
      exact absurd this hm.1.2
    | cons c n =>
      obtain ⟨b, w⟩ := c
      have hnc := hn
      simp only [cellsWf, Bool.and_eq_true, decide_eq_true_eq] at hn
      have hab : a = b := by
        rcases Nat.lt_trichotomy a b with hlt | heq | hgt
        · have h1 := h a
          rw [readCell, if_pos rfl, readCell, if_neg (by omega), readCell_below hn.2 (by omega)] at h1
          exact absurd h1 hm.1.2
        · exact heq
        · have h1 := h b
          rw [readCell, if_neg (by omega), readCell_below hm.2 (by omega), readCell, if_pos rfl] at h1
          exact absurd h1.symm hn.1.2
      subst hab
      have hv := h a
      simp only [readCell, if_true] at hv
      subst hv
      congr 1
      refine ih hm.2 hn.2 fun c => ?_
      by_cases hc : c < a + 1
      · rw [readCell_below hm.2 hc, readCell_below hn.2 hc]
      · have := h c
        rwa [readCell, if_neg (by omega), readCell, if_neg (by omega)] at this

/-! ### The memories of the block -/

theorem readByte_writeByte_same {size : Nat} {m : Memory} (a : Nat) (v : Byte) (h : Memory.wf size m = true) :
    readByte (writeByte m a v) a = v := readCell_writeCell_same a v h

theorem readByte_writeByte_other (m : Memory) {a b : Nat} (v : Byte) (h : b ≠ a) :
    readByte (writeByte m a v) b = readByte m b := readCell_writeCell_other m v h

theorem Memory.wf_writeByte {size : Nat} {m : Memory} {a : Nat} (v : Byte) (h : Memory.wf size m = true)
    (ha : a < size) : Memory.wf size (writeByte m a v) = true := cellsWf_writeCell v h (Nat.zero_le a) ha

theorem readPixel_writePixel_same {m : ScreenBuffer} (x y : Nat) (v : Color) (h : ScreenBuffer.wf m = true) :
    readPixel (writePixel m x y v) x y = v := readCell_writeCell_same _ v h

theorem readPixel_writePixel_other (m : ScreenBuffer) {x y x' y' : Nat} (v : Color) (hx : x < 256)
    (hx' : x' < 256) (h : (x', y') ≠ (x, y)) : readPixel (writePixel m x y v) x' y' = readPixel m x' y' := by
  refine readCell_writeCell_other m v fun he => h ?_
  have : x' = x ∧ y' = y := by omega
  rw [this.1, this.2]

theorem ScreenBuffer.wf_writePixel {m : ScreenBuffer} {x y : Nat} (v : Color) (h : ScreenBuffer.wf m = true)
    (hx : x < 256) (hy : y < 240) : ScreenBuffer.wf (writePixel m x y v) = true :=
  cellsWf_writeCell v h (Nat.zero_le _) (by omega)

/-- A memory built from a list of cells is canonical. -/
theorem Memory.wf_memoryOf (size : Nat) (cells : List Host.Cell) : Memory.wf size (memoryOf size cells) = true := by
  unfold memoryOf
  suffices h : ∀ m : Memory, Memory.wf size m = true →
      Memory.wf size (cells.foldl (fun m c => if c.1 < size then writeByte m c.1 c.2 else m) m) = true from
    h [] rfl
  induction cells with
  | nil => exact fun m hm => hm
  | cons c cells ih =>
    intro m hm
    refine ih _ ?_
    by_cases hc : c.1 < size
    · simpa only [if_pos hc] using Memory.wf_writeByte c.2 hm hc
    · simpa only [if_neg hc] using hm

/-- A screen buffer built from a list of cells is canonical. -/
theorem ScreenBuffer.wf_screenOf (cells : List (Nat × Color)) : ScreenBuffer.wf (screenOf cells) = true := by
  unfold screenOf
  suffices h : ∀ m : ScreenBuffer, ScreenBuffer.wf m = true →
      ScreenBuffer.wf
        (cells.foldl (fun m c => if c.1 < 61440 then writeCell unlistedColor m c.1 c.2 else m) m) = true from
    h [] rfl
  induction cells with
  | nil => exact fun m hm => hm
  | cons c cells ih =>
    intro m hm
    refine ih _ ?_
    by_cases hc : c.1 < 61440
    · simp only [if_pos hc]
      exact cellsWf_writeCell c.2 hm (Nat.zero_le _) hc
    · simpa only [if_neg hc] using hm

end Sys2Proof.Machine
end

