-- ==== Sys2Proof/Laws/State.lean ====
section
/-! SUPPORT. One lemma per field per update of the state. -/

namespace Sys2Proof.Machine

/-! ### `complete` -/

@[simp] theorem complete_hw (s : State) (h : Hardware) : (complete s h).hw = h := rfl
@[simp] theorem complete_status (s : State) (h : Hardware) : (complete s h).status = s.status := rfl
@[simp] theorem complete_params (s : State) (h : Hardware) : (complete s h).params = s.params := rfl
@[simp] theorem complete_commands (s : State) (h : Hardware) : (complete s h).commands = s.commands := rfl
@[simp] theorem complete_result (s : State) (h : Hardware) : (complete s h).result = none := rfl

/-! ### `answer` -/

@[simp] theorem answer_hw (s : State) (v : ValueField) : (answer s v).hw = s.hw := rfl
@[simp] theorem answer_status (s : State) (v : ValueField) : (answer s v).status = s.status := rfl
@[simp] theorem answer_params (s : State) (v : ValueField) : (answer s v).params = s.params := rfl
@[simp] theorem answer_commands (s : State) (v : ValueField) : (answer s v).commands = s.commands := rfl
@[simp] theorem answer_result (s : State) (v : ValueField) : (answer s v).result = some v := rfl

/-! ### `takeFault` -/

@[simp] theorem takeFault_hw (s : State) (h : Hardware) (rec : FaultRecord) : (takeFault s h rec).hw = h := rfl
@[simp] theorem takeFault_status (s : State) (h : Hardware) (rec : FaultRecord) : (takeFault s h rec).status = .aborted rec := rfl
@[simp] theorem takeFault_params (s : State) (h : Hardware) (rec : FaultRecord) : (takeFault s h rec).params = s.params := rfl
@[simp] theorem takeFault_commands (s : State) (h : Hardware) (rec : FaultRecord) : (takeFault s h rec).commands = s.commands := rfl
@[simp] theorem takeFault_result (s : State) (h : Hardware) (rec : FaultRecord) : (takeFault s h rec).result = none := rfl

/-! ### `issueCommand` -/

@[simp] theorem issueCommand_hw (s : State) (w : CommandWord) : (issueCommand s w).hw = s.hw := rfl
@[simp] theorem issueCommand_status (s : State) (w : CommandWord) : (issueCommand s w).status = s.status := rfl
@[simp] theorem issueCommand_params (s : State) (w : CommandWord) : (issueCommand s w).params = s.params := rfl
@[simp] theorem issueCommand_commands (s : State) (w : CommandWord) : (issueCommand s w).commands = w :: s.commands := rfl
@[simp] theorem issueCommand_result (s : State) (w : CommandWord) : (issueCommand s w).result = s.result := rfl

/-! ### `tick` -/

@[simp] theorem tick_cpuA (p : Params) (h : Hardware) : (tick p h).cpuA = h.cpuA := rfl
@[simp] theorem tick_cpuX (p : Params) (h : Hardware) : (tick p h).cpuX = h.cpuX := rfl
@[simp] theorem tick_cpuY (p : Params) (h : Hardware) : (tick p h).cpuY = h.cpuY := rfl
@[simp] theorem tick_cpuP (p : Params) (h : Hardware) : (tick p h).cpuP = h.cpuP := rfl
@[simp] theorem tick_cpuSP (p : Params) (h : Hardware) : (tick p h).cpuSP = h.cpuSP := rfl
@[simp] theorem tick_cpuPC (p : Params) (h : Hardware) : (tick p h).cpuPC = h.cpuPC := rfl
@[simp] theorem tick_cpuMem (p : Params) (h : Hardware) : (tick p h).cpuMem = h.cpuMem := rfl
@[simp] theorem tick_cycle (p : Params) (h : Hardware) : (tick p h).cycle = BitVec.ofNat 16 (tickCycle h.cycle.toNat) := rfl
@[simp] theorem tick_scanline (p : Params) (h : Hardware) : (tick p h).scanline = BitVec.ofNat 16 (tickScanline h.scanline.toNat h.cycle.toNat) := rfl
@[simp] theorem tick_frame (p : Params) (h : Hardware) : (tick p h).frame = 
    BitVec.ofNat 24 (tickFrame p.frameWidth h.scanline.toNat h.cycle.toNat h.frame.toNat) := rfl
@[simp] theorem tick_scrollX (p : Params) (h : Hardware) : (tick p h).scrollX = h.scrollX := rfl
@[simp] theorem tick_scrollY (p : Params) (h : Hardware) : (tick p h).scrollY = h.scrollY := rfl
@[simp] theorem tick_nametableBase (p : Params) (h : Hardware) : (tick p h).nametableBase = h.nametableBase := rfl
@[simp] theorem tick_bgPatternBase (p : Params) (h : Hardware) : (tick p h).bgPatternBase = h.bgPatternBase := rfl
@[simp] theorem tick_vblank (p : Params) (h : Hardware) : (tick p h).vblank = h.vblank := rfl
@[simp] theorem tick_nmiEnable (p : Params) (h : Hardware) : (tick p h).nmiEnable = h.nmiEnable := rfl
@[simp] theorem tick_ppuMem (p : Params) (h : Hardware) : (tick p h).ppuMem = h.ppuMem := rfl
@[simp] theorem tick_spriteMem (p : Params) (h : Hardware) : (tick p h).spriteMem = h.spriteMem := rfl
@[simp] theorem tick_screen (p : Params) (h : Hardware) : (tick p h).screen = h.screen := rfl
@[simp] theorem tick_intLatch (p : Params) (h : Hardware) : (tick p h).intLatch = h.intLatch := rfl

/-! ### `raiseVblank` -/

@[simp] theorem raiseVblank_cpuA (h : Hardware) : (raiseVblank h).cpuA = h.cpuA := rfl
@[simp] theorem raiseVblank_cpuX (h : Hardware) : (raiseVblank h).cpuX = h.cpuX := rfl
@[simp] theorem raiseVblank_cpuY (h : Hardware) : (raiseVblank h).cpuY = h.cpuY := rfl
@[simp] theorem raiseVblank_cpuP (h : Hardware) : (raiseVblank h).cpuP = h.cpuP := rfl
@[simp] theorem raiseVblank_cpuSP (h : Hardware) : (raiseVblank h).cpuSP = h.cpuSP := rfl
@[simp] theorem raiseVblank_cpuPC (h : Hardware) : (raiseVblank h).cpuPC = h.cpuPC := rfl
@[simp] theorem raiseVblank_cpuMem (h : Hardware) : (raiseVblank h).cpuMem = h.cpuMem := rfl
@[simp] theorem raiseVblank_cycle (h : Hardware) : (raiseVblank h).cycle = h.cycle := rfl
@[simp] theorem raiseVblank_scanline (h : Hardware) : (raiseVblank h).scanline = h.scanline := rfl
@[simp] theorem raiseVblank_frame (h : Hardware) : (raiseVblank h).frame = h.frame := rfl
@[simp] theorem raiseVblank_scrollX (h : Hardware) : (raiseVblank h).scrollX = h.scrollX := rfl
@[simp] theorem raiseVblank_scrollY (h : Hardware) : (raiseVblank h).scrollY = h.scrollY := rfl
@[simp] theorem raiseVblank_nametableBase (h : Hardware) : (raiseVblank h).nametableBase = h.nametableBase := rfl
@[simp] theorem raiseVblank_bgPatternBase (h : Hardware) : (raiseVblank h).bgPatternBase = h.bgPatternBase := rfl
@[simp] theorem raiseVblank_vblank (h : Hardware) : (raiseVblank h).vblank = true := rfl
@[simp] theorem raiseVblank_nmiEnable (h : Hardware) : (raiseVblank h).nmiEnable = h.nmiEnable := rfl
@[simp] theorem raiseVblank_ppuMem (h : Hardware) : (raiseVblank h).ppuMem = h.ppuMem := rfl
@[simp] theorem raiseVblank_spriteMem (h : Hardware) : (raiseVblank h).spriteMem = h.spriteMem := rfl
@[simp] theorem raiseVblank_screen (h : Hardware) : (raiseVblank h).screen = h.screen := rfl
@[simp] theorem raiseVblank_intLatch (h : Hardware) : (raiseVblank h).intLatch = if h.nmiEnable then .nmi else h.intLatch := rfl

/-! ### `clearVblank` -/

@[simp] theorem clearVblank_cpuA (h : Hardware) : (clearVblank h).cpuA = h.cpuA := rfl
@[simp] theorem clearVblank_cpuX (h : Hardware) : (clearVblank h).cpuX = h.cpuX := rfl
@[simp] theorem clearVblank_cpuY (h : Hardware) : (clearVblank h).cpuY = h.cpuY := rfl
@[simp] theorem clearVblank_cpuP (h : Hardware) : (clearVblank h).cpuP = h.cpuP := rfl
@[simp] theorem clearVblank_cpuSP (h : Hardware) : (clearVblank h).cpuSP = h.cpuSP := rfl
@[simp] theorem clearVblank_cpuPC (h : Hardware) : (clearVblank h).cpuPC = h.cpuPC := rfl
@[simp] theorem clearVblank_cpuMem (h : Hardware) : (clearVblank h).cpuMem = h.cpuMem := rfl
@[simp] theorem clearVblank_cycle (h : Hardware) : (clearVblank h).cycle = h.cycle := rfl
@[simp] theorem clearVblank_scanline (h : Hardware) : (clearVblank h).scanline = h.scanline := rfl
@[simp] theorem clearVblank_frame (h : Hardware) : (clearVblank h).frame = h.frame := rfl
@[simp] theorem clearVblank_scrollX (h : Hardware) : (clearVblank h).scrollX = h.scrollX := rfl
@[simp] theorem clearVblank_scrollY (h : Hardware) : (clearVblank h).scrollY = h.scrollY := rfl
@[simp] theorem clearVblank_nametableBase (h : Hardware) : (clearVblank h).nametableBase = h.nametableBase := rfl
@[simp] theorem clearVblank_bgPatternBase (h : Hardware) : (clearVblank h).bgPatternBase = h.bgPatternBase := rfl
@[simp] theorem clearVblank_vblank (h : Hardware) : (clearVblank h).vblank = false := rfl
@[simp] theorem clearVblank_nmiEnable (h : Hardware) : (clearVblank h).nmiEnable = h.nmiEnable := rfl
@[simp] theorem clearVblank_ppuMem (h : Hardware) : (clearVblank h).ppuMem = h.ppuMem := rfl
@[simp] theorem clearVblank_spriteMem (h : Hardware) : (clearVblank h).spriteMem = h.spriteMem := rfl
@[simp] theorem clearVblank_screen (h : Hardware) : (clearVblank h).screen = h.screen := rfl
@[simp] theorem clearVblank_intLatch (h : Hardware) : (clearVblank h).intLatch = h.intLatch := rfl

/-! ### The position -/

@[simp] theorem pos_scanline (h : Hardware) : h.pos.scanline = h.scanline := rfl
@[simp] theorem pos_cycle (h : Hardware) : h.pos.cycle = h.cycle := rfl

end Sys2Proof.Machine
end

