-- ==== Sys2Proof/Laws/Machine.lean ====
section
/-! SUPPORT. What each shared operation can do, said once: status, value encodings, cells of a token, TICK, the
pixel pipeline, the phase actions and the bodies of STEP. -/

namespace Sys2Proof.Machine

/-! ### Status -/

@[simp] theorem ifRunning_running {s : State} (k : StepOutcome) (h : s.status = .running) : ifRunning s k = k := by
  simp [ifRunning, h]

@[simp] theorem ifRunning_aborted {s : State} {rec : FaultRecord} (k : StepOutcome) (h : s.status = .aborted rec) :
    ifRunning s k = .fault (.sessionAborted rec) := by
  simp [ifRunning, h]

/-- Whatever is guarded by the status answers a next state only in a running session. -/
theorem running_of_ifRunning_next {s t : State} {k : StepOutcome} (h : ifRunning s k = .next t) :
    s.status = .running ∧ k = .next t := by
  cases hs : s.status with
  | running => exact ⟨rfl, by rwa [ifRunning_running k hs] at h⟩
  | aborted rec => rw [ifRunning_aborted k hs] at h; cases h

theorem runAction_ok {s : State} (h : Hardware) (hs : s.status = .running) :
    runAction s (.ok h) = .next (complete s h) := by
  simp [runAction, hs]

theorem runAction_error {s : State} (c : FaultCause) (hs : s.status = .running) :
    runAction s (.error c) = .next (takeFault s s.hw (c.recordAt s.hw.pos)) := by
  simp [runAction, raiseHere, hs]

/-! ### Values -/

/-- Every latch value a code gives is one of its values (spec R38). -/
theorem latchWf_ofCode (c : Byte) : latchWf (latchOfCode c) = true := by
  unfold latchOfCode
  split
  · rfl
  · split
    · rfl
    · simp only [latchWf, decide_eq_true_eq]
      bv_omega

theorem latchCode_ofCode (c : Byte) : latchCode (latchOfCode c) = c := by
  unfold latchOfCode
  split
  · next h => exact h.symm
  · split
    · next h => exact h.symm
    · rfl

theorem latchOfCode_eq_nmi {c : Byte} : latchOfCode c = .nmi ↔ c = 1#8 := by
  unfold latchOfCode
  split
  · next h => subst h; decide
  · split
    · next h => simp [h]
    · next h => simp [h]

/-- A value decodes exactly when it is in the legal range of its type (spec R89). -/
theorem decodeValue_isSome (W : Nat) (ty : ValueType) (v : ValueField) :
    (decodeValue W ty v).isSome = ty.legal W v := by
  cases ty <;> simp only [decodeValue, ValueType.legal]
  case bool =>
    by_cases h0 : v = 0#24
    · subst h0; decide
    · by_cases h1 : v = 1#24
      · subst h1; decide
      · simp only [h0, h1, if_false, Option.isSome_none]
        have : ¬ v.toNat < 2 := by bv_omega
        simp [this]
  case color => rfl
  all_goals (split <;> simp_all)

/-- A value that encodes reads back (spec R88), for the values the state holds. -/
theorem decodeValue_latch_wf {W : Nat} {v : ValueField} {l : IntLatch} (h : decodeValue W .latch v = some l) :
    latchWf l = true := by
  simp only [decodeValue] at h
  split at h
  · cases h; exact latchWf_ofCode _
  · cases h

theorem decodeValue_frame_lt {W : Nat} {v f : ValueField} (h : decodeValue W .frameCounter v = some f) :
    f.toNat < 2 ^ W := by
  simp only [decodeValue] at h
  split at h
  · cases h; assumption
  · cases h

/-! ### Cells of a token -/

/-- A store to one token leaves every other token's value alone (spec R61). -/
theorem load_store_other (h : Hardware) {t u : Token} (v : t.Value) (hne : u ≠ t) :
    (h.store t v).load u = h.load u := by
  cases t with
  | cpuReg r =>
    cases r <;> cases u with
      | cpuReg r' => cases r' <;> first | rfl | exact absurd rfl hne
      | _ => rfl
  | cpuMem a =>
    cases u with
    | cpuReg r' => cases r' <;> rfl
    | cpuMem b =>
      exact readByte_writeByte_other _ _ fun he => hne (by rw [BitVec.eq_of_toNat_eq he])
    | _ => rfl
  | ppuMem a =>
    cases u with
    | cpuReg r' => cases r' <;> rfl
    | ppuMem b =>
      exact readByte_writeByte_other _ _ fun he => hne (by rw [BitVec.eq_of_toNat_eq he])
    | _ => rfl
  | spriteMem a =>
    cases u with
    | cpuReg r' => cases r' <;> rfl
    | spriteMem b =>
      exact readByte_writeByte_other _ _ fun he => hne (by rw [BitVec.eq_of_toNat_eq he])
    | _ => rfl
  | screen x y =>
    cases u with
    | cpuReg r' => cases r' <;> rfl
    | screen x' y' =>
      refine readPixel_writePixel_other _ _ x.isLt x'.isLt fun he => hne ?_
      rw [Prod.mk.injEq] at he
      rw [BitVec.eq_of_toNat_eq he.1, Fin.ext he.2]
    | _ => rfl
  | _ =>
    cases u with
    | cpuReg r' => cases r' <;> rfl
    | _ => first | rfl | exact absurd rfl hne

/-- A stored value reads back (spec R70), the memories being canonical. -/
theorem load_store_same {p : Params} {h : Hardware} (hw : h.Wf p) (t : Token) (v : t.Value) :
    (h.store t v).load t = v := by
  cases t with
  | cpuReg r => cases r <;> rfl
  | cpuMem a => exact readByte_writeByte_same _ _ hw.cpuMem
  | ppuMem a => exact readByte_writeByte_same _ _ hw.ppuMem
  | spriteMem a => exact readByte_writeByte_same _ _ hw.spriteMem
  | screen x y => exact readPixel_writePixel_same _ _ _ hw.screen
  | _ => rfl

/-! ### TICK and CLASSIFY -/

theorem tickCycle_le (c : Nat) : tickCycle c ≤ 340 := by
  unfold tickCycle; split <;> omega

theorem tickScanline_le (s c : Nat) : tickScanline s c ≤ 261 := by
  unfold tickScanline; split <;> omega

theorem tick_cycle_toNat (p : Params) (h : Hardware) : (tick p h).cycle.toNat = tickCycle h.cycle.toNat := by
  have := tickCycle_le h.cycle.toNat
  rw [tick_cycle, BitVec.toNat_ofNat, Nat.mod_eq_of_lt (by omega)]

theorem tick_scanline_toNat (p : Params) (h : Hardware) :
    (tick p h).scanline.toNat = tickScanline h.scanline.toNat h.cycle.toNat := by
  have := tickScanline_le h.scanline.toNat h.cycle.toNat
  rw [tick_scanline, BitVec.toNat_ofNat, Nat.mod_eq_of_lt (by omega)]

/-- TICK leaves the position in range (spec R25, R26). -/
theorem tick_inRange (p : Params) (h : Hardware) : (tick p h).InRange :=
  ⟨by rw [tick_cycle_toNat]; exact tickCycle_le _, by rw [tick_scanline_toNat]; exact tickScanline_le _ _⟩

/-- The frame counter after a TICK, in its width (spec R27). -/
theorem tick_frame_toNat {p : Params} (hp : p.wf) (h : Hardware) :
    (tick p h).frame.toNat = tickFrame p.frameWidth h.scanline.toNat h.cycle.toNat h.frame.toNat := by
  have h24 : 2 ^ p.frameWidth ≤ 2 ^ 24 := Nat.pow_le_pow_right (by omega) hp.2
  rw [tick_frame, BitVec.toNat_ofNat]
  refine Nat.mod_eq_of_lt ?_
  unfold tickFrame
  split
  · exact lt_of_lt_of_le (Nat.mod_lt _ (Nat.two_pow_pos _)) h24
  · exact h.frame.isLt

theorem classify_visible {s c : Nat} : classify s c = .visible ↔ s ≤ 239 ∧ 1 ≤ c ∧ c ≤ 256 := by
  unfold classify
  split_ifs <;> simp <;> omega

theorem classify_unreachable {s c : Nat} : classify s c = .unreachable ↔ 262 ≤ s := by
  unfold classify
  split_ifs <;> simp <;> omega

/-! ### The pixel pipeline -/

/-- What a pipeline fault can be (spec R178, R179). -/
def PipelineFault (c : FaultCause) : Prop :=
  (∃ n, 0xFFFF < n ∧ c = ⟨.ppuAddressOverflow, .address n⟩) ∨
    (∃ pb : Byte, ∃ pi : Nat, 0x40 ≤ pb.toNat ∧ pi < 16 ∧ c = ⟨.paletteIndexRange, .palette pb pi⟩)

theorem formAddress_error {p : Params} {n : Nat} {c : FaultCause} (h : formAddress p n = .error c) :
    0xFFFF < n ∧ c = ⟨.ppuAddressOverflow, .address n⟩ := by
  unfold formAddress at h
  split at h
  · cases h
  · split at h
    · cases h; exact ⟨by omega, rfl⟩
    · cases h

theorem readPpu_error {p : Params} {h : Hardware} {n : Nat} {c : FaultCause} (hr : readPpu p h n = .error c) :
    PipelineFault c := by
  unfold readPpu at hr
  split at hr
  · cases hr
  · next e he =>
    cases hr
    have := formAddress_error he
    exact .inl ⟨n, this.1, this.2⟩

/-- At or below 0xFFFF an address names its cell directly (spec R178). -/
theorem readPpu_of_le (p : Params) (h : Hardware) {n : Nat} (hn : n ≤ 0xFFFF) :
    readPpu p h n = .ok (readByte h.ppuMem n) := by
  simp [readPpu, formAddress, hn]

theorem bitOf_lt (v : Byte) (b : Nat) : bitOf v b < 2 := Nat.mod_lt _ (by omega)

theorem patternColor_lt (lo hi : Byte) (sx : Nat) : patternColor lo hi sx < 4 := by
  have h1 := bitOf_lt hi (7 - sx % 8)
  have h2 := bitOf_lt lo (7 - sx % 8)
  unfold patternColor
  generalize bitOf hi _ = a at h1
  generalize bitOf lo _ = b at h2
  interval_cases a <;> interval_cases b <;> decide

theorem attributeColor_lt (v : Byte) (tx ty : Nat) : attributeColor v tx ty < 4 :=
  lt_of_le_of_lt Nat.and_le_right (by omega)

theorem paletteIndex_lt {acol pat : Nat} (h1 : acol < 4) (h2 : pat < 4) : paletteIndex acol pat < 16 := by
  interval_cases acol <;> interval_cases pat <;> decide

theorem checkPalette_error {p : Params} {pb : Byte} {pi : Nat} {c : FaultCause}
    (h : checkPalette p pb pi = .error c) : 0x40 ≤ pb.toNat ∧ c = ⟨.paletteIndexRange, .palette pb pi⟩ := by
  unfold checkPalette at h
  split at h
  · cases h
  · split at h
    · cases h; exact ⟨by omega, rfl⟩
    · cases h

/-- The pipeline faults only as R178 and R179 say. -/
theorem pixelIndex_error {p : Params} {h : Hardware} {x y : Nat} {c : FaultCause}
    (hc : pixelIndex p h x y = .error c) : PipelineFault c := by
  unfold pixelIndex at hc
  dsimp only at hc
  split at hc
  · next he => cases hc; exact readPpu_error he
  · split at hc
    · next he => cases hc; exact readPpu_error he
    · split at hc
      · next he => cases hc; exact readPpu_error he
      · split at hc
        · next he => cases hc; exact readPpu_error he
        · have := checkPalette_error hc
          exact .inr ⟨_, _, this.1, paletteIndex_lt (attributeColor_lt _ _ _) (patternColor_lt _ _ _), this.2⟩

theorem renderPixel_ok {p : Params} {h h' : Hardware} {x y : Nat} (hr : renderPixel p h x y = .ok h') :
    ∃ i, pixelIndex p h x y = .ok i ∧ h' = { h with screen := writePixel h.screen x y (Config.hwPalette i) } := by
  unfold renderPixel at hr
  split at hr
  · cases hr
  · next i hi => cases hr; exact ⟨i, hi, rfl⟩

theorem renderPixel_error {p : Params} {h : Hardware} {x y : Nat} {c : FaultCause}
    (hr : renderPixel p h x y = .error c) : PipelineFault c := by
  unfold renderPixel at hr
  split at hr
  · next he => cases hr; exact pixelIndex_error he
  · cases hr

/-! ### The phase actions and the body of STEP -/

/-- Everything a completed action can have done at the position it was dispatched at (spec R134 to R140). -/
inductive ActionEffect (h : Hardware) : Hardware → Prop
  | nothing (off : phaseOf h ≠ .visible) (enter : phaseOf h ≠ .enterVblank) (exit : phaseOf h ≠ .exitVblank) :
      ActionEffect h h
  | pixel (at' : phaseOf h = .visible) (col : Color) :
      ActionEffect h { h with screen := writePixel h.screen (h.cycle.toNat - 1) h.scanline.toNat col }
  | raised (at' : phaseOf h = .enterVblank) : ActionEffect h (raiseVblank h)
  | cleared (at' : phaseOf h = .exitVblank) : ActionEffect h (clearVblank h)

theorem phaseAction_ok {p : Params} {h h' : Hardware} (ha : phaseAction p (phaseOf h) h = .ok h') :
    ActionEffect h h' := by
  cases hp : phaseOf h <;> rw [hp] at ha
  case visible =>
    obtain ⟨i, -, rfl⟩ := renderPixel_ok (show renderPixel p h _ _ = .ok h' from ha)
    exact .pixel hp _
  case enterVblank => cases ha; exact .raised hp
  case exitVblank => cases ha; exact .cleared hp
  case unreachable => cases ha
  all_goals (cases ha; exact .nothing (by simp [hp]) (by simp [hp]) (by simp [hp]))

/-- The body of STEP that completes: a TICK and the effect of the action at the new position (spec R132). -/
theorem stepBody_ok {p : Params} {h h' : Hardware} (hb : stepBody p h = .ok h') :
    ActionEffect (tick p h) h' := by
  unfold stepBody at hb
  dsimp only at hb
  split at hb
  · next he => cases hb; exact phaseAction_ok he
  · cases hb

/-- The body of STEP that faults: a pipeline fault at the post-TICK position (spec R201). -/
theorem stepBody_error {p : Params} {h : Hardware} {rec : FaultRecord} (hb : stepBody p h = .error rec) :
    ∃ c, PipelineFault c ∧ rec = c.recordAt (tick p h).pos := by
  unfold stepBody at hb
  dsimp only at hb
  split at hb
  · cases hb
  · next c he =>
    cases hb
    refine ⟨c, ?_, rfl⟩
    cases hp : phaseOf (tick p h) <;> rw [hp] at he
    case visible => exact renderPixel_error (show renderPixel p (tick p h) _ _ = .error c from he)
    case unreachable =>
      have := (tick_inRange p h).2
      have := classify_unreachable.mp hp
      omega
    all_goals cases he

/-- An induction over the bodies of a frame: what every completed STEP body keeps, the frame keeps (spec R142). -/
theorem stepBodies_keeps {p : Params} {P : Hardware → Prop}
    (hstep : ∀ h h', P h → stepBody p h = .ok h' → P h') :
    ∀ (n : Nat) (h : Hardware), P h → P (stepBodies p n h).1 := by
  intro n
  induction n with
  | zero => exact fun h hP => hP
  | succ n ih =>
    intro h hP
    rw [stepBodies]
    split
    · next h' hb => exact ih h' (hstep h h' hP hb)
    · exact hP

/-- The fault of a frame is that of the STEP body after the ones that completed (spec R142, R202). -/
theorem stepBodies_error {p : Params} :
    ∀ (n : Nat) (h : Hardware) {h' : Hardware} {rec : FaultRecord}, stepBodies p n h = (h', some rec) →
      ∃ k, k < n ∧ stepBodies p k h = (h', none) ∧ stepBody p h' = .error rec := by
  intro n
  induction n with
  | zero => intro h h' rec hb; cases hb
  | succ n ih =>
    intro h h' rec hb
    rw [stepBodies] at hb
    split at hb
    · next h1 h1b =>
      obtain ⟨k, hk, hk1, hk2⟩ := ih h1 hb
      exact ⟨k + 1, by omega, by rw [stepBodies, h1b]; exact hk1, hk2⟩
    · next rec' he =>
      cases hb
      exact ⟨0, by omega, rfl, he⟩

end Sys2Proof.Machine
end

