-- ==== Sys2Proof/Laws/PerInstr.lean ====
section
/-! SUPPORT. Facts about every instruction as syntax, one lemma per constructor. Family TableRow: the word of a
well-formed instruction has the fixed fields that its row of spec/opcode_table.json gives it. -/

namespace Sys2Proof.Laws

/-- The fixed fields of the instruction's row: `op`, `rsv` and the fields that must be 0 (spec R82, R84, R90), or
the phase code (R93). -/
def TableRow.Statement (i : Instr) : Prop :=
  ∀ W, i.wellFormed W = true →
    match i, encode i with
    | .load _ _, .command w => opField w = 0x1 ∧ rsvField w = 0 ∧ tzField (tokField w) = 0 ∧ valField w = 0
    | .store _ _ _, .command w => opField w = 0x2 ∧ rsvField w = 0 ∧ tzField (tokField w) = 0
    | .step _, .command w => opField w = 0x3 ∧ rsvField w = 0 ∧ tokField w = 0 ∧ valField w = 0
    | .stepFrame _, .command w => opField w = 0x4 ∧ rsvField w = 0 ∧ tokField w = 0 ∧ valField w = 0
    | .idleRender, .phase c => c = 0
    | .visible, .phase c => c = 1
    | .prefetch, .phase c => c = 2
    | .postrender, .phase c => c = 3
    | .enterVblank, .phase c => c = 4
    | .vblankIdle, .phase c => c = 5
    | .exitVblank, .phase c => c = 6
    | .unreachable, .phase c => c = 7
    | _, _ => False

theorem TableRow.load (ag : Agent) (t : TokenRef) : TableRow.Statement (.load ag t) := by
  intro W h
  cases t with
  | token t => simp [encode, encodeToken]
  | invalid w => cases h

theorem TableRow.store (ag : Agent) (t : TokenRef) (val : ValueField) :
    TableRow.Statement (.store ag t val) := by
  intro W h
  cases t with
  | token t => simp [encode, encodeToken]
  | invalid w => cases h

theorem TableRow.step (ag : Agent) : TableRow.Statement (.step ag) := fun _ _ => by simp [encode]

theorem TableRow.stepFrame (ag : Agent) : TableRow.Statement (.stepFrame ag) := fun _ _ => by simp [encode]

theorem TableRow.idleRender : TableRow.Statement .idleRender := fun _ _ => rfl

theorem TableRow.visible : TableRow.Statement .visible := fun _ _ => rfl

theorem TableRow.prefetch : TableRow.Statement .prefetch := fun _ _ => rfl

theorem TableRow.postrender : TableRow.Statement .postrender := fun _ _ => rfl

theorem TableRow.enterVblank : TableRow.Statement .enterVblank := fun _ _ => rfl

theorem TableRow.vblankIdle : TableRow.Statement .vblankIdle := fun _ _ => rfl

theorem TableRow.exitVblank : TableRow.Statement .exitVblank := fun _ _ => rfl

theorem TableRow.unreachable : TableRow.Statement .unreachable := fun _ _ => rfl

end Sys2Proof.Laws
end

