-- ==== Sys2Proof/Laws/Step.lean ====
section
/-! SUPPORT. What a command, a step and a run can have done when they answer a next state, said once. -/

namespace Sys2Proof.Machine

/-! ### The commands -/

theorem raiseHere_next {s t : State} {c : FaultCause} (h : raiseHere s c = .next t) :
    t = takeFault s s.hw (c.recordAt s.hw.pos) := by
  cases h; rfl

/-- A LOAD that answers a next state answered with the cell, or raised `InvalidAddress`. -/
theorem execLoad_next {s t : State} {ag : Agent} {r : TokenRef} (h : execLoad ag r s = .next t) :
    s.status = .running ∧
      ((∃ tok, r = .token tok ∧ t = answer s (encodeValue tok.valueType (s.hw.load tok))) ∨
        ∃ w, r = .invalid w ∧
          t = takeFault s s.hw (FaultCause.recordAt ⟨.invalidAddress, wordInfo (.load ag r)⟩ s.hw.pos)) := by
  obtain ⟨hs, hk⟩ := running_of_ifRunning_next h
  refine ⟨hs, ?_⟩
  split at hk
  · exact .inr ⟨_, rfl, raiseHere_next hk⟩
  · cases hk; exact .inl ⟨_, rfl, rfl⟩

/-- The codes of the faults that a STORE's own checks raise (spec R91, checks 5 to 7). -/
def StoreFault (c : FaultCode) : Prop :=
  c = .invalidAddress ∨ c = .typeMismatch ∨ c = .latchProtocolViolation

/-- A STORE that answers a next state wrote its cell, or raised one of its faults. -/
theorem execStore_next {s t : State} {ag : Agent} {r : TokenRef} {val : ValueField}
    (h : execStore ag r val s = .next t) :
    s.status = .running ∧
      ((∃ (tok : Token) (v : tok.Value), r = .token tok ∧
          decodeValue s.params.frameWidth tok.valueType val = some v ∧ protocolForbids ag s.hw tok v = false ∧
          t = complete s (s.hw.store tok (storedValue s.params s.hw tok v))) ∨
        ∃ c, StoreFault c ∧
          t = takeFault s s.hw (FaultCause.recordAt ⟨c, wordInfo (.store ag r val)⟩ s.hw.pos)) := by
  obtain ⟨hs, hk⟩ := running_of_ifRunning_next h
  refine ⟨hs, ?_⟩
  split at hk
  · exact .inr ⟨_, .inl rfl, raiseHere_next hk⟩
  · split at hk
    · exact .inr ⟨_, .inr (.inl rfl), raiseHere_next hk⟩
    · next v hv =>
      split at hk
      · exact .inr ⟨_, .inr (.inr rfl), raiseHere_next hk⟩
      · next hf => cases hk; exact .inl ⟨_, v, rfl, hv, by simpa using hf, rfl⟩

/-- A STEP that answers a next state completed its body, or was undone by its fault. -/
theorem execStep_next {s t : State} {ag : Agent} (h : execStep ag s = .next t) :
    s.status = .running ∧
      ((∃ h', stepBody s.params s.hw = .ok h' ∧ t = complete s h') ∨
        ∃ rec, stepBody s.params s.hw = .error rec ∧ t = takeFault s s.hw rec) := by
  obtain ⟨hs, hk⟩ := running_of_ifRunning_next h
  refine ⟨hs, ?_⟩
  split at hk
  · next h' hb => cases hk; exact .inl ⟨h', hb, rfl⟩
  · next rec hb => cases hk; exact .inr ⟨rec, hb, rfl⟩

/-- A STEP whose body completes, completes. -/
theorem execStep_of_ok {s : State} {h' : Hardware} (ag : Agent) (hs : s.status = .running)
    (hb : stepBody s.params s.hw = .ok h') : execStep ag s = .next (complete s h') := by
  rw [execStep, ifRunning_running _ hs, hb]

/-- A STEP whose body faults takes the fault from the state before it. -/
theorem execStep_of_error {s : State} {rec : FaultRecord} (ag : Agent) (hs : s.status = .running)
    (hb : stepBody s.params s.hw = .error rec) : execStep ag s = .next (takeFault s s.hw rec) := by
  rw [execStep, ifRunning_running _ hs, hb]

/-- A STEP_FRAME that answers a next state completed its bodies, or stopped at the one that faulted. -/
theorem execStepFrame_next {s t : State} {ag : Agent} (h : execStepFrame ag s = .next t) :
    s.status = .running ∧
      ((∃ h', stepBodies s.params frameSteps s.hw = (h', none) ∧ t = complete s h') ∨
        ∃ h' rec, stepBodies s.params frameSteps s.hw = (h', some rec) ∧ t = takeFault s h' rec) := by
  obtain ⟨hs, hk⟩ := running_of_ifRunning_next h
  refine ⟨hs, ?_⟩
  split at hk
  · next h' hb => cases hk; exact .inl ⟨h', hb, rfl⟩
  · next h' rec hb => cases hk; exact .inr ⟨h', rec, hb, rfl⟩

/-- A STEP_FRAME whose bodies all complete, completes. -/
theorem execStepFrame_of_none {s : State} {h' : Hardware} (ag : Agent) (hs : s.status = .running)
    (hb : stepBodies s.params frameSteps s.hw = (h', none)) : execStepFrame ag s = .next (complete s h') := by
  rw [execStepFrame, ifRunning_running _ hs, hb]

/-! ### One step -/

/-- The commands are the four of spec R82. -/
theorem decodeCommand_ok {w : CommandWord} {i : Instr} (h : decodeCommand w = .ok i) :
    (∃ ag t, i = .load ag t) ∨ (∃ ag t v, i = .store ag t v) ∨ (∃ ag, i = .step ag) ∨
      ∃ ag, i = .stepFrame ag := by
  unfold decodeCommand at h
  dsimp only at h
  repeat' split at h
  all_goals cases h
  · exact .inl ⟨_, _, rfl⟩
  · exact .inr (.inl ⟨_, _, _, rfl⟩)
  · exact .inr (.inr (.inl ⟨_, rfl⟩))
  · exact .inr (.inr (.inr ⟨_, rfl⟩))

/-- A step of a running session with a command word issued. -/
theorem step_of_commands {s : State} {w : CommandWord} {rest : List CommandWord} (hs : s.status = .running)
    (hc : s.commands = w :: rest) :
    step s = match decodeCommand w with
      | .ok i => exec i { s with commands := rest }
      | .error _ => rejectCommand w { s with commands := rest } := by
  rw [step, ifRunning_running _ hs]
  cases hd : decodeCommand w <;> simp [nextCommand, hc, hd]

/-- A step that answers a next state did nothing for want of a command, performed one, or rejected one. -/
theorem step_next {s t : State} (h : step s = .next t) :
    s.status = .running ∧
      ((s.commands = [] ∧ t = s) ∨
        ∃ w rest, s.commands = w :: rest ∧
          ((∃ i, decodeCommand w = .ok i ∧ exec i { s with commands := rest } = .next t) ∨
            ((∃ e, decodeCommand w = .error e) ∧
              t = takeFault { s with commands := rest } s.hw
                (FaultCause.recordAt ⟨.illegalCommand, .word w⟩ s.hw.pos)))) := by
  have hs := (running_of_ifRunning_next h).1
  refine ⟨hs, ?_⟩
  cases hc : s.commands with
  | nil =>
    rw [step, ifRunning_running _ hs] at h
    simp only [nextCommand, hc] at h
    cases h; exact .inl ⟨rfl, rfl⟩
  | cons w rest =>
    rw [step_of_commands hs hc] at h
    refine .inr ⟨w, rest, rfl, ?_⟩
    cases hd : decodeCommand w with
    | ok i => rw [hd] at h; exact .inl ⟨i, rfl, h⟩
    | error e => rw [hd] at h; exact .inr ⟨⟨e, rfl⟩, raiseHere_next h⟩

/-! ### A run -/

theorem run_of_next {n : Nat} {s s' : State} (h : step s = .next s') :
    Host.Core.run Sys2Proof.core (n + 1) s = Host.Core.run Sys2Proof.core n s' := by
  have h' : Sys2Proof.core.step s = .next s' := h
  simp only [Host.Core.run, h']

theorem run_of_fault {n : Nat} {s : State} {r : Fault} (h : step s = .fault r) :
    Host.Core.run Sys2Proof.core (n + 1) s = .fault r := by
  have h' : Sys2Proof.core.step s = .fault r := h
  simp only [Host.Core.run, h']

theorem decode_stepWord : decodeCommand stepWord = .ok (.step .driver) := by decide

/-- A run of STEP commands is the bodies of STEP in a row (spec R99, R142). -/
theorem run_steps {n : Nat} {s : State} {rest : List CommandWord} {h : Hardware} (hs : s.status = .running)
    (hc : s.commands = List.replicate n stepWord ++ rest) (hb : stepBodies s.params n s.hw = (h, none)) :
    Host.Core.run Sys2Proof.core n s =
      .next { s with hw := h, commands := rest, result := if n = 0 then s.result else none } := by
  induction n generalizing s with
  | zero => cases hb; simp at hc; simp [Host.Core.run, ← hc]
  | succ n ih =>
    rw [stepBodies] at hb
    split at hb
    · next h1 hb1 =>
      have hst : step s = .next (complete { s with commands := List.replicate n stepWord ++ rest } h1) := by
        rw [step_of_commands hs (rest := List.replicate n stepWord ++ rest) (w := stepWord) hc, decode_stepWord]
        exact execStep_of_ok .driver (by exact hs) hb1
      rw [run_of_next hst, ih (s := complete { s with commands := List.replicate n stepWord ++ rest } h1) hs rfl hb]
      cases n <;> rfl
    · cases hb

/-! ### Frames that complete -/

/-- A pixel's index depends on the scroll and base registers and PPU memory alone (spec R181). -/
theorem pixelIndex_congr {p : Params} {h h' : Hardware} {x y : Nat} (hx : h.scrollX = h'.scrollX)
    (hy : h.scrollY = h'.scrollY) (hn : h.nametableBase = h'.nametableBase)
    (hb : h.bgPatternBase = h'.bgPatternBase) (hm : ∀ a, readByte h.ppuMem a = readByte h'.ppuMem a) :
    pixelIndex p h x y = pixelIndex p h' x y := by
  have hr : ∀ n, readPpu p h n = readPpu p h' n := by
    intro n; unfold readPpu; split <;> simp [hm]
  unfold pixelIndex nametableAddr attributeAddr patternAddr scrolledX scrolledY
  simp only [hx, hy, hn, hb, hm, hr]

/-- The pipeline gives an index when the bases keep every address in range and the palette bytes are below 0x40
(spec R243). -/
theorem pixelIndex_of_ranges (p : Params) {h : Hardware} (x y : Nat) (hn : h.nametableBase.toNat ≤ 0xFC00)
    (hb : h.bgPatternBase.toNat ≤ 0xF000) (hp : ∀ i, i < 16 → (readByte h.ppuMem (0x3F00 + i)).toNat < 0x40) :
    ∃ i, pixelIndex p h x y = .ok i := by
  have hsx : scrolledX h x < 256 := Nat.mod_lt _ (by omega)
  have hsy : scrolledY h y < 240 := Nat.mod_lt _ (by omega)
  have hnt : nametableAddr h (tileX (scrolledX h x)) (tileY (scrolledY h y)) ≤ 0xFFFF := by
    unfold nametableAddr tileX tileY; omega
  have hpt : ∀ t : Byte, patternAddr h t (scrolledY h y % 8) + 8 ≤ 0xFFFF := by
    intro t; unfold patternAddr; have := t.isLt; omega
  have hat : attributeAddr h (tileX (scrolledX h x)) (tileY (scrolledY h y)) ≤ 0xFFFF := by
    unfold attributeAddr attributeGroup tileX tileY; omega
  unfold pixelIndex
  simp only [readPpu_of_le p h hnt, readPpu_of_le p h (hpt _), readPpu_of_le p h (Nat.le_of_add_right_le (hpt _)),
    readPpu_of_le p h hat]
  unfold checkPalette
  rw [if_pos (hp _ (paletteIndex_lt (attributeColor_lt _ _ _) (patternColor_lt _ _ _)))]
  exact ⟨_, rfl⟩

/-- The body of STEP completes where the pipeline faults at no pixel. -/
theorem stepBody_completes {p : Params} {h : Hardware}
    (hpix : ∀ x y, ∃ i, pixelIndex p h x y = .ok i) : ∃ h', stepBody p h = .ok h' := by
  unfold stepBody
  dsimp only
  cases hp : phaseOf (tick p h) with
  | visible =>
    obtain ⟨i, hi⟩ := hpix ((tick p h).cycle.toNat - 1) (tick p h).scanline.toNat
    have : pixelIndex p (tick p h) ((tick p h).cycle.toNat - 1) (tick p h).scanline.toNat = .ok i := hi
    simp only [phaseAction, visibleAction, renderPixel, this]
    exact ⟨_, rfl⟩
  | unreachable =>
    have := (tick_inRange p h).2
    have := classify_unreachable.mp hp
    omega
  | _ => exact ⟨_, rfl⟩

/-- An action leaves what the pipeline reads as it was (spec R45). -/
theorem ActionEffect.pixelIndex_eq {p : Params} {h h' : Hardware} (e : ActionEffect h h') (x y : Nat) :
    pixelIndex p h' x y = pixelIndex p h x y := by
  cases e <;> exact pixelIndex_congr rfl rfl rfl rfl fun _ => rfl

/-- Any number of STEP bodies complete where the pipeline faults at no pixel. -/
theorem stepBodies_complete {p : Params} (n : Nat) {h : Hardware}
    (hpix : ∀ x y, ∃ i, pixelIndex p h x y = .ok i) : ∃ h', stepBodies p n h = (h', none) := by
  induction n generalizing h with
  | zero => exact ⟨h, rfl⟩
  | succ n ih =>
    obtain ⟨h1, hb⟩ := stepBody_completes hpix
    rw [stepBodies, hb]
    refine ih fun x y => ?_
    rw [(stepBody_ok hb).pixelIndex_eq]
    exact hpix x y

end Sys2Proof.Machine
end

