-- ==== Sys2Proof/Tests/Slice0.lean ====
section
/-! SUPPORT. The model's tests. Expected values are those of the spec's own examples and vectors (95_test_vectors.md,
ids V-…, W…) or of the rules named. The last part shows, for each obligation with hypotheses, a state that meets
them. -/

namespace Sys2Proof.Tests

open Sys2Proof Sys2Proof.Machine Sys2Proof.Slice0

/-! ### Helpers -/

/-- The reset Hardware State at another position. -/
def hwAt (s c : Nat) : Hardware :=
  { Hardware.reset with scanline := BitVec.ofNat 16 s, cycle := BitVec.ofNat 16 c }

/-- A running session in the reference configuration with the command words issued. -/
def sess (h : Hardware) (ws : List CommandWord) : State := { State.reset with hw := h, commands := ws }

/-- The state of a next-state outcome. -/
def nextOf (o : StepOutcome) : Option State :=
  match o with
  | .next t => some t
  | .fault _ | .refused _ => none

/-- The word for the next command of a session at reset: the status after it. -/
def statusAfter (h : Hardware) (w : CommandWord) : Option Status := (nextOf (step (sess h [w]))).map (·.status)

/-- The answer after one command. -/
def answerAfter (h : Hardware) (w : CommandWord) : Option ValueField :=
  (nextOf (step (sess h [w]))).bind (·.result)

/-- The code of the fault a command raises. -/
def codeAfter (h : Hardware) (w : CommandWord) : Option FaultCode :=
  match statusAfter h w with
  | some (.aborted rec) => some rec.code
  | _ => none

/-- Fixture F1 of 95_test_vectors.md, section 2.7. -/
def f1 : Hardware :=
  { Hardware.reset with
    ppuMem := memoryOf 65536
      [(0x2001, 0x05), (0x0053, 0x20), (0x005B, 0x24), (0x23C0, 0xE4), (0x3F00, 0x10), (0x3F01, 0x11),
        (0x3F02, 0x12), (0x3F03, 0x16), (0x3F04, 0x14), (0x3F05, 0x15), (0x3F06, 0x16), (0x3F07, 0x17),
        (0x3F08, 0x18), (0x3F09, 0x19), (0x3F0A, 0x1A), (0x3F0B, 0x1B), (0x3F0C, 0x1C), (0x3F0D, 0x1D),
        (0x3F0E, 0x1E), (0x3F0F, 0x1F)] }

/-- The palette index a pixel gets, in the reference configuration. -/
def pxOf (h : Hardware) (x y : Nat) : Option (BitVec 6) := (pixelIndex Params.reference h x y).toOption

/-- The fault a pixel raises. -/
def faultOf (p : Params) (h : Hardware) (x y : Nat) : Option FaultCause :=
  match pixelIndex p h x y with
  | .ok _ => none
  | .error c => some c

/-! ### Well-formedness: each check refuses an ill-formed term -/

theorem test_wf_load_invalid_token : (Instr.load .cpu (.invalid 0x00030000)).wellFormed 16 = false := by decide
theorem test_wf_store_invalid_token : (Instr.store .cpu (.invalid 0x10000001) 0).wellFormed 16 = false := by decide
theorem test_wf_store_u8 : (Instr.store .cpu (.token .scrollX) 0x100).wellFormed 16 = false := by decide
theorem test_wf_store_u16 : (Instr.store .cpu (.token .cycle) 0x10000).wellFormed 16 = false := by decide
theorem test_wf_store_frame : (Instr.store .cpu (.token .frame) 0x100).wellFormed 8 = false := by decide
theorem test_wf_store_bool : (Instr.store .cpu (.token .vblank) 2).wellFormed 16 = false := by decide
theorem test_wf_store_latch : (Instr.store .cpu (.token .intLatch) 0x100).wellFormed 16 = false := by decide
/-- The largest legal values pass. -/
theorem test_wf_accepts :
    (Instr.store .cpu (.token .scrollX) 0xFF).wellFormed 16 = true ∧
      (Instr.store .cpu (.token .frame) 0xFFFF).wellFormed 16 = true ∧
      (Instr.store .cpu (.token (.screen 255 239)) 0xFFFFFF).wellFormed 16 = true := by decide

/-! ### Decoding: words from the spec's encodings -/

/-- R110's example, V-LS-13, V-LS-10 and kind 0x20 of R86 with agent 1 (R83). -/
theorem test_decode_load :
    decodeCommand 0x1017000000000000 = .ok (.load .cpu (.token .vblank)) ∧
      decodeCommand 0x1001000005000000 = .ok (.load .cpu (.token (.cpuReg .pc))) ∧
      decodeCommand 0x1C1B00EFFF000000 = .ok (.load .presentation (.token (.screen 255 239))) ∧
      decodeCommand 0x1420000000000000 = .ok (.load .driver (.token .intLatch)) := by decide

/-- R111's example, V-LS-8, V-LS-9, V-LS-11, V-LS-18 and the cartridge's prefix of section 2.3. -/
theorem test_decode_store :
    decodeCommand 0x201300000000007F = .ok (.store .cpu (.token .scrollX) 0x7F) ∧
      decodeCommand 0x2019003F0000000F = .ok (.store .cpu (.token (.ppuMem 0x3F00)) 0x0F) ∧
      decodeCommand 0x201A0000FF000001 = .ok (.store .cpu (.token (.spriteMem 0xFF)) 1) ∧
      decodeCommand 0x201B000201010203 = .ok (.store .cpu (.token (.screen 1 2)) 0x010203) ∧
      decodeCommand 0x20020020000000AA = .ok (.store .cpu (.token (.cpuMem 0x2000)) 0xAA) ∧
      decodeCommand 0x2820000000000007 = .ok (.store .cartridge (.token .intLatch) 7) := by decide

/-- Each single register's kind code (R86). -/
theorem test_decode_kinds :
    [0x10, 0x11, 0x12, 0x13, 0x14, 0x15, 0x16, 0x17, 0x18, 0x20].map (fun k => tokenOfKind k 0) =
      [some .cycle, some .scanline, some .frame, some .scrollX, some .scrollY, some .nametableBase,
        some .bgPatternBase, some .vblank, some .nmiEnable, some .intLatch] := by decide

/-- The CPU registers' numbers (R86). -/
theorem test_decode_cpu_registers :
    [0, 1, 2, 3, 4, 5, 6].map (fun r => tokenOfKind 0x01 r) =
      [some (.cpuReg .a), some (.cpuReg .x), some (.cpuReg .y), some (.cpuReg .p), some (.cpuReg .sp),
        some (.cpuReg .pc), none] := by decide

/-- R132 and R142, each with its own agent bits. -/
theorem test_decode_step :
    decodeCommand 0x3400000000000000 = .ok (.step .driver) ∧
      decodeCommand 0x3000000000000000 = .ok (.step .cpu) := by decide
theorem test_decode_step_frame :
    decodeCommand 0x4400000000000000 = .ok (.stepFrame .driver) ∧
      decodeCommand 0x4C00000000000000 = .ok (.stepFrame .presentation) := by decide

/-- The phase codes of R93, as the opcode table's words. -/
theorem test_decode_phases :
    [0, 1, 2, 3, 4, 5, 6, 7].map (decodeTableWord 8) =
      [some .idleRender, some .visible, some .prefetch, some .postrender, some .enterVblank, some .vblankIdle,
        some .exitVblank, some .unreachable] := by decide

/-- V-DE-1 to V-DE-9: checks 1 to 4 of R91, in order. -/
theorem test_decode_rejects :
    decodeCommand 0x0000000000000000 = .error .reservedOpcode ∧
      decodeCommand 0x5500000000000000 = .error .reservedOpcode ∧
      decodeCommand 0x3513000000000000 = .error .reservedBits ∧
      decodeCommand 0x3410000000000000 = .error .stepOperand ∧
      decodeCommand 0x3400000000000001 = .error .stepOperand ∧
      decodeCommand 0x1003000000000001 = .error .loadValue := by decide

/-- The encoder gives the same words (R99, V-LS-10, V-LS-12). -/
theorem test_encode :
    encode (.step .driver) = .command 0x3400000000000000 ∧
      encode (.load .presentation (.token (.screen 255 239))) = .command 0x1C1B00EFFF000000 ∧
      encode (.store .cpu (.token (.cpuReg .pc)) 0xC000) = .command 0x200100000500C000 := by decide

/-! ### The decode procedure's faults -/

/-- V-DE-1, 4, 10 to 15. -/
theorem test_faults_of_encoding :
    [0x0000000000000000, 0x3500000000000000, 0x1003000000000000, 0x1010000001000000, 0x1010010000000000,
        0x1001000006000000, 0x101A000100000000, 0x1C1B00F000000000].map (codeAfter Hardware.reset) =
      [some .illegalCommand, some .illegalCommand, some .invalidAddress, some .invalidAddress,
        some .invalidAddress, some .invalidAddress, some .invalidAddress, some .invalidAddress] := by decide

/-- V-DE-16 to 21, 23: checks 5, 6 and 7 in their order; V-DE-22 with its whole record (R91). -/
theorem test_faults_of_stores :
    [0x2003000000000100, 0x2013000000000100, 0x2017000000000002, 0x2012000000010000, 0x2010000000010000,
        0x2001000000000100, 0x2020000000000001].map (codeAfter Hardware.reset) =
      [some .invalidAddress, some .typeMismatch, some .typeMismatch, some .typeMismatch, some .typeMismatch,
        some .typeMismatch, some .latchProtocolViolation] ∧
      statusAfter { Hardware.reset with intLatch := .nmi } 0x2420000000000100 =
        some (.aborted ⟨.typeMismatch, some ⟨240, 340⟩, .word 0x2420000000000100⟩) := by decide

/-! ### LOAD and STORE -/

/-- V-LS-1 to V-LS-6. -/
theorem test_load_at_reset :
    [0x1017000000000000, 0x1010000000000000, 0x1011000000000000, 0x1012000000000000, 0x1015000000000000,
        0x1020000000000000].map (answerAfter Hardware.reset) =
      [some 0, some 340, some 240, some 0, some 0x2000, some 0] := by decide

/-- V-LS-11: a pixel's colour, red in the high byte. -/
theorem test_load_pixel :
    answerAfter { Hardware.reset with screen := [(0x201, ⟨1, 2, 3⟩)] } 0x101B000201000000 = some 0x010203 := by
  decide

/-- V-LS-14 and V-LS-18: any u16 in a counter, and the CPU's memory is not the PPU's registers. -/
theorem test_store_frame :
    (nextOf (step (sess Hardware.reset [0x2010000000000190]))).map (fun t => (t.hw.cycle, t.hw.scanline)) =
        some (400, 240) ∧
      (nextOf (step (sess Hardware.reset [0x20020020000000AA]))).map
          (fun t => (t.hw.cpuMem, t.hw.nametableBase)) = some ([(0x2000, 0xAA)], 0x2000) := by decide

/-- The table of section 2.3: whether an agent's store of a latch code to a latch faults. -/
theorem test_latch_table :
    [IntLatch.none, .nmi, .other 7].map (fun l =>
        ([0, 1, 7].map fun v => latchForbids .cpu l (latchOfCode v)) ++
          [0, 1, 7].map fun v => latchForbids .presentation l (latchOfCode v)) =
      [[false, true, false, false, true, false], [false, true, false, true, true, true],
        [false, true, false, false, true, false]] := by decide

/-- A cell written back to what an unlisted cell reads as leaves the canonical form. -/
theorem test_write_canonical :
    writeByte (writeByte (writeByte [] 5 1) 3 2) 5 0 = [(3, 2)] ∧
      writeByte [(3, 2), (9, 4)] 5 1 = [(3, 2), (5, 1), (9, 4)] := by decide

/-! ### TICK and CLASSIFY -/

/-- V-TK-1 to V-TK-14: (scanline, cycle, frame) before and after, V-TK-8 with an 8-bit frame counter. -/
theorem test_tick :
    [(0, 0, 0), (0, 340, 0), (239, 340, 0), (240, 340, 0), (261, 339, 0), (261, 340, 5), (261, 340, 0xFFFF),
        (100, 400, 0), (0, 0xFFFF, 0), (300, 5, 0), (300, 340, 0), (262, 0, 0), (0xFFFF, 0xFFFF, 0)].map
        (fun q => (tickScanline q.1 q.2.1, tickCycle q.2.1, tickFrame 16 q.1 q.2.1 q.2.2)) =
      [(0, 1, 0), (1, 0, 0), (240, 0, 0), (241, 0, 0), (261, 340, 0), (0, 0, 6), (0, 0, 0), (101, 0, 0),
        (1, 0, 0), (0, 6, 1), (0, 0, 1), (0, 1, 1), (0, 0, 1)] ∧
      tickFrame 8 261 340 0xFF = 0 := by decide

/-- V-CL-1 to V-CL-23 and V-CL-25. -/
theorem test_classify :
    [(0, 0), (0, 1), (0, 256), (0, 257), (0, 320), (0, 321), (0, 336), (0, 337), (0, 340), (0, 400), (239, 256),
        (262, 0), (240, 0), (240, 1), (240, 340), (241, 0), (241, 1), (241, 2), (260, 1), (261, 0), (261, 1),
        (261, 340), (241, 400), (0xFFFF, 0)].map (fun q => (classify q.1 q.2).code) =
      [0, 1, 1, 0, 0, 2, 2, 0, 0, 0, 1, 7, 3, 3, 3, 5, 4, 5, 5, 5, 6, 5, 5, 7] := by decide

/-! ### STEP and the phase actions -/

/-- V-ST-1, V-ST-11 and V-ST-12: only the position changes. -/
theorem test_step_nothing :
    nextOf (step (sess Hardware.reset [stepWord])) = some (sess (hwAt 241 0) []) ∧
      nextOf (step (sess (hwAt 10 300) [stepWord])) = some (sess (hwAt 10 301) []) ∧
      nextOf (step (sess (hwAt 5 329) [stepWord])) = some (sess (hwAt 5 330) []) := by decide

/-- V-ST-4 and V-ST-7: Enter overwrites another kind with NMI, Exit leaves the latch. -/
theorem test_step_vblank :
    nextOf (step (sess { hwAt 241 0 with intLatch := .other 7, nmiEnable := true } [stepWord])) =
        some (sess { hwAt 241 1 with intLatch := .nmi, nmiEnable := true, vblank := true } []) ∧
      nextOf (step (sess { hwAt 261 0 with intLatch := .nmi, nmiEnable := true, vblank := true } [stepWord])) =
        some (sess { hwAt 261 1 with intLatch := .nmi, nmiEnable := true } []) := by decide

/-- V-ST-3: with NMI disabled the latch keeps another kind. -/
theorem test_enter_vblank_disabled :
    nextOf (exec .enterVblank (sess { hwAt 241 1 with intLatch := .other 7 } [])) =
      some (sess { hwAt 241 1 with intLatch := .other 7, vblank := true } []) := by decide

theorem test_exit_vblank :
    nextOf (exec .exitVblank (sess { hwAt 261 1 with vblank := true } [])) = some (sess (hwAt 261 1) []) := by
  decide

/-- R141's example: a dispatch of code 7 at (262, 0). -/
theorem test_unreachable :
    (nextOf (exec .unreachable (sess (hwAt 262 0) []))).map (·.status) =
      some (.aborted ⟨.invariantViolation, some ⟨262, 0⟩, .position ⟨262, 0⟩⟩) := by decide

/-- The step before pixel (0, 0) writes nothing else, whatever the palette holds (V-ST-17). -/
theorem test_step_renders :
    nextOf (step (sess (hwAt 0 0) [stepWord])) =
      some (sess { hwAt 0 1 with screen := writePixel [] 0 0 (Config.hwPalette 0) } []) := rfl

/-- The example of R170 and a bit set only in the second plane (V-PX-1, 3); the attribute quadrants (V-PX-5 to 8);
scrolling and its wrap (V-PX-19, 11, 12, 14); the last attribute group, and the last tile at base 0x1000 (V-PX-16,
17). -/
theorem test_pixel :
    (pxOf f1 10 3 = some 0x16 ∧ pxOf f1 13 3 = some 0x12 ∧ pxOf f1 8 3 = some 0x10) ∧
      (pxOf f1 16 0 = some 0x14 ∧ pxOf f1 0 16 = some 0x18 ∧ pxOf f1 16 16 = some 0x1C ∧
        pxOf f1 24 24 = some 0x1C) ∧
      (pxOf { f1 with scrollX := 10, scrollY := 3 } 0 0 = some 0x16 ∧
        scrolledX { f1 with scrollX := 255 } 1 = 0 ∧ scrolledY { f1 with scrollY := 239 } 1 = 0 ∧
        scrolledY { f1 with scrollY := 255 } 239 = 14) ∧
      pxOf { Hardware.reset with ppuMem := [(0x23FF, 0x04), (0x3F04, 0x2A)] } 255 239 = some 0x2A ∧
      pxOf { Hardware.reset with
          bgPatternBase := 0x1000
          ppuMem := [(0x1FF7, 0x01), (0x1FFF, 0x01), (0x2000, 0xFF), (0x3F03, 0x03)] } 7 7 = some 0x03 := by
  decide

/-- The address that overflows (V-PF-1 to 4), and a palette byte of 0x40 or more under each policy (V-PF-7 to 9). -/
theorem test_pixel_faults :
    faultOf Params.reference { f1 with nametableBase := 0xFFFF } 8 0 =
        some ⟨.ppuAddressOverflow, .address 0x10000⟩ ∧
      faultOf Params.reference { f1 with nametableBase := 0xFFFF } 0 0 =
        some ⟨.ppuAddressOverflow, .address 0x103BF⟩ ∧
      faultOf Params.reference { f1 with nametableBase := 0xFC40 } 0 0 =
        some ⟨.ppuAddressOverflow, .address 0x10000⟩ ∧
      faultOf Params.reference
          { f1 with bgPatternBase := 0xF010, ppuMem := writeByte f1.ppuMem 0x2000 0xFF } 0 0 =
        some ⟨.ppuAddressOverflow, .address 0x10000⟩ ∧
      faultOf Params.reference { Hardware.reset with ppuMem := [(0x3F00, 0x40)] } 0 0 =
        some ⟨.paletteIndexRange, .palette 0x40 0⟩ ∧
      (pixelIndex { Params.reference with palettePolicy := .mask6 }
          { Hardware.reset with ppuMem := [(0x3F00, 0x40)] } 0 0).toOption = some 0 ∧
      (pixelIndex { Params.reference with palettePolicy := .mask6 }
          { Hardware.reset with ppuMem := [(0x3F00, 0xFF)] } 0 0).toOption = some 0x3F := by decide

/-! ### Faults -/

/-- The state of V-AB-2: the pixel after (0, 0) faults. -/
def badPalette (s c : Nat) : Hardware := { hwAt s c with ppuMem := [(0x3F00, 0x40)] }

/-- V-AB-2: the TICK is undone and the record holds the position after it. -/
theorem test_step_abort :
    nextOf (step (sess (badPalette 0 0) [stepWord])) =
      some { sess (badPalette 0 0) [] with
        status := .aborted ⟨.paletteIndexRange, some ⟨0, 1⟩, .palette 0x40 0⟩ } := by decide

/-- R142: the STEPs before the faulting one stay performed. -/
theorem test_step_frame_abort :
    nextOf (step (sess (badPalette 261 339) [0x4400000000000000])) =
      some { sess { badPalette 0 0 with frame := 1 } [] with
        status := .aborted ⟨.paletteIndexRange, some ⟨0, 1⟩, .palette 0x40 0⟩ } := by decide

/-- V-AB-1: no step after an abort. -/
theorem test_aborted :
    step { sess Hardware.reset [0x1010000000000000] with
        status := .aborted ⟨.illegalCommand, some ⟨0, 1⟩, .word 0⟩ } =
      .fault (.sessionAborted ⟨.illegalCommand, some ⟨0, 1⟩, .word 0⟩) := rfl

/-! ### What the host places -/

/-- A command word and a phase code are what the next step runs. -/
theorem test_withFetchWord :
    step (State.reset.withFetchWord 64 0x1010000000000000) =
        exec (.load .cpu (.token .cycle)) State.reset ∧
      (nextOf (step (State.reset.withFetchWord 8 4))).map (fun t => (t.hw.vblank, phaseOf t.hw)) =
        some (true, .enterVblank) ∧
      (nextOf (step (State.reset.withFetchWord 8 2))).map (fun t => phaseOf t.hw) = some .prefetch := by
  refine ⟨rfl, ?_, ?_⟩ <;> decide

/-! ### Witnesses: states that meet the hypotheses of the obligations -/

/-- Every obligation whose only hypotheses are `running`, `Inv`, `params.wf` or that the position is in range:
LoadAnswersTheCell, ExitVblankClearsTheFlag, StoreWritesScreenCells, InvariantAtCreation and others. -/
theorem reset_inv : State.reset.Inv :=
  ⟨by decide, ⟨rfl, rfl, rfl, rfl, by decide, rfl⟩, fun _ h => by cases h⟩
theorem witness_running :
    State.reset.status = .running ∧ State.reset.Inv ∧ State.reset.params.wf ∧ State.reset.hw.InRange :=
  ⟨rfl, reset_inv, by decide, by unfold Hardware.InRange; decide⟩

/-- DecodeOfEncode: an operand that names a token and one that names none; EncodeOfDecode: accepted words. -/
theorem witness_encoding :
    CanonicalOperands (.store .cartridge (.token (.screen 255 239)) 0xFFFFFF) ∧
      CanonicalOperands (.load .cpu (.invalid 0x1B00F000)) ∧
      decode (.command 0x1C1B00F000000000) = .ok (.load .presentation (.invalid 0x1B00F000)) ∧
      decode (.phase 7) = .ok .unreachable := by
  refine ⟨trivial, ?_, ?_, ?_⟩
  · unfold CanonicalOperands CanonicalRef; decide
  · decide
  · decide

/-- IllFormedCommandsAbort: one word for each of checks 1 to 4 of R91, op at both ends of its range. -/
theorem witness_ill_formed :
    ∀ w ∈ ([0x0000000000000000, 0x5000000000000000, 0x1100000000000000, 0x3400000000000001,
        0x4410000000000000, 0x1010000000000001] : List CommandWord),
      (sess Hardware.reset [w]).status = .running ∧ (sess Hardware.reset [w]).commands = [w] ∧
        ¬ PassesCommandChecks w := by
  simp only [List.forall_mem_cons, List.not_mem_nil, false_imp_iff, implies_true, and_true]
  repeat' apply And.intro
  all_goals
    try unfold PassesCommandChecks
    try unfold NamesToken
    decide

/-- InvalidTokensAbort: the first index past each range of R86, an unassigned kind and a nonzero `tz`, for LOAD
and STORE. -/
theorem witness_invalid_tokens :
    ∀ w ∈ ([0x1001000006000000, 0x1010000001000000, 0x101A000100000000, 0x1C1B00F000000000, 0x1020000001000000,
        0x1003000000000000, 0x1010010000000000, 0x2003000000000100] : List CommandWord),
      PassesCommandChecks w ∧ fieldOp w ≤ 2 ∧ ¬ NamesToken w := by
  simp only [List.forall_mem_cons, List.not_mem_nil, false_imp_iff, implies_true, and_true]
  repeat' apply And.intro
  all_goals
    try unfold PassesCommandChecks
    try unfold NamesToken
    decide

/-- IllTypedStoresAbort: the least illegal value of each bound of R88 (every colour is legal). -/
theorem witness_ill_typed :
    ∀ w ∈ ([0x2001000004000100, 0x2001000005010000, 0x2002000000000100, 0x2010000000010000, 0x2012000000010000,
        0x2017000000000002, 0x2018000000000002, 0x201A0000FF000100, 0x2020000000000100] : List CommandWord),
      PassesCommandChecks w ∧ fieldOp w = 2 ∧ NamesToken w ∧ valueBound 16 w ≤ fieldVal w := by
  simp only [List.forall_mem_cons, List.not_mem_nil, false_imp_iff, implies_true, and_true]
  repeat' apply And.intro
  all_goals
    try unfold PassesCommandChecks
    try unfold NamesToken
    decide

/-- WellFormedCommandsArePerformed: each opcode, and the largest legal value of a bound. -/
theorem witness_well_formed :
    ∀ w ∈ ([0x1C1B00EFFF000000, 0x20010000040000FF, 0x201200000000FFFF, 0x201B00EFFFFFFFFF, 0x20200000000000FF,
        0x3400000000000000, 0x4400000000000000] : List CommandWord),
      PassesCommandChecks w ∧ (fieldOp w ≤ 2 → NamesToken w) ∧
        (fieldOp w = 2 → fieldVal w < valueBound 16 w) := by
  simp only [List.forall_mem_cons, List.not_mem_nil, false_imp_iff, implies_true, and_true]
  repeat' apply And.intro
  all_goals
    try unfold PassesCommandChecks
    try unfold NamesToken
    decide

/-- StepRunsTheDecodedCommand, StepsTakeOneCommand and StepsKeepTheInvariant: a state with a command; IdleSessionPersists: one
with none. -/
theorem witness_step :
    (sess Hardware.reset [stepWord]).commands = [stepWord] ∧ decodeCommand stepWord = .ok (.step .driver) ∧
      (sess Hardware.reset [stepWord]).Inv ∧
      step (sess Hardware.reset [stepWord]) = .next (sess (hwAt 241 0) []) ∧ State.reset.commands = [] :=
  ⟨rfl, rfl, ⟨by decide, reset_inv.hw, fun _ h => by cases h⟩, rfl, rfl⟩

/-- AbortedSessionsHaveNoStep: the state after V-DE-1; AbortIsPrecise: V-DE-1 and a STEP_FRAME whose third STEP
faults. -/
theorem witness_abort :
    (∃ t, step (sess Hardware.reset [0]) = .next t ∧
      t.status = .aborted ⟨.illegalCommand, some ⟨240, 340⟩, .word 0⟩) ∧
    (∃ t, step (sess (badPalette 261 339) [0x4400000000000000]) = .next t ∧
      t.status = .aborted ⟨.paletteIndexRange, some ⟨0, 1⟩, .palette 0x40 0⟩) :=
  ⟨⟨_, rfl, rfl⟩, ⟨_, rfl, rfl⟩⟩

/-- A session with cartridge-mapped cells at the top of CPU and PPU memory. -/
def mapped : State :=
  { State.reset with params := { Params.reference with cartMapped := [(.cpu, 0xFFFF), (.ppu, 0xFFFF)] } }

/-- AccessesTouchOneCell: a LOAD and STOREs to mapped cells that answer next states, and another token. -/
theorem witness_accesses :
    (∃ t, exec (.load .cpu (.token (.cpuMem 0xFFFF))) mapped = .next t) ∧
      (∃ t, exec (.store .cpu (.token (.cpuMem 0xFFFF)) 0xFF) mapped = .next t ∧ t.status = .running) ∧
      (∃ t, exec (.store .cpu (.token (.ppuMem 0xFFFF)) 0xFF) mapped = .next t ∧ t.status = .running) ∧
      Token.ppuMem 0xFFFF ≠ Token.cpuMem 0xFFFF :=
  ⟨⟨_, rfl⟩, ⟨_, rfl, rfl⟩, ⟨_, rfl, rfl⟩, by decide⟩

/-- AccessesAreTotal, AgentMattersOnlyToTheLatch and LatchProtocolDecidesLatchStores: a legal value of a token, and for the latch
each reason to forbid a store and the stores next to it that are allowed. -/
theorem witness_legal :
    Token.scrollX.valueType.legal 16 0xFF = true ∧ Token.scrollX ≠ .intLatch ∧
      Token.intLatch.valueType.legal 16 0xFF = true ∧ Token.intLatch.valueType.legal 16 1 = true ∧
      latchForbids .cpu .none (latchOfCode 1) = true ∧ latchForbids .driver .nmi (latchOfCode 0) = true ∧
      latchForbids .cpu .nmi (latchOfCode 0) = false ∧ latchForbids .driver .none (latchOfCode 2) = false := by
  decide

/-- StoreWritesCpuRegisters and StoreWritesPpuRegisters: the largest value of each bound. -/
theorem witness_store_bounds :
    (0xFF : ValueField).toNat < 2 ^ 8 ∧ (0xFFFF : ValueField).toNat < 2 ^ 16 ∧
      (0xFFFF : ValueField).toNat < 2 ^ State.reset.params.frameWidth ∧ (1 : ValueField).toNat < 2 := by decide

/-- StoreWritesMemoryCells: mapped and unmapped cells. -/
theorem witness_store_memory :
    mapped.status = .running ∧ mapped.Inv ∧ (MapSpace.cpu, (0xFFFF : Half).toNat) ∈ mapped.params.cartMapped ∧
      (MapSpace.ppu, (0xFFFF : Half).toNat) ∈ mapped.params.cartMapped ∧
      (MapSpace.cpu, (0xFFFE : Half).toNat) ∉ mapped.params.cartMapped ∧
      (MapSpace.ppu, (0xFFFE : Half).toNat) ∉ mapped.params.cartMapped :=
  ⟨rfl, ⟨by decide, ⟨rfl, rfl, rfl, rfl, by decide, rfl⟩, fun _ h => by cases h⟩, by decide, by decide, by decide,
    by decide⟩

/-- StepOffTheScreen, StepWritesFlagsAndOnePixel, EnteringVblankIsTheOnlyNmiSource: a state before (241, 1), one before (261, 1)
and others, among them the positions next to the Visible ones and one out of range. -/
theorem witness_step_off :
    (NextPosition (hwAt 241 0) 241 1 ∧ NextPosition (hwAt 261 0) 261 1) ∧
    ∀ q ∈ [(240, 340), (261, 340), (5, 256), (5, 340), (300, 340)],
      ¬ NextPosition (hwAt q.1 q.2) 241 1 ∧ ¬ NextPosition (hwAt q.1 q.2) 261 1 ∧
        ¬ (nextScanline (scan (hwAt q.1 q.2)) (cyc (hwAt q.1 q.2)) ≤ 239 ∧
          1 ≤ nextCycle (cyc (hwAt q.1 q.2)) ∧ nextCycle (cyc (hwAt q.1 q.2)) ≤ 256) := by
  unfold NextPosition; decide

/-- StepOntoTheScreen: the first and the last pixel; a palette byte of 0x40 under `mask6`; bases past those that keep
every pixel's addresses in range, with this pixel's at the last address (V-PF-5's pattern base and the greatest). -/
theorem witness_step_onto :
    (NextPosition (hwAt 0 0) 0 (0 + 1) ∧ NextPosition (hwAt 239 255) 239 (255 + 1)) ∧
      (PixelFits (hwAt 0 0) 0 0 ∧ PixelFits (hwAt 239 255) 255 239 ∧ PixelFits (badPalette 0 0) 0 0) ∧
      ppu (hwAt 0 0) (0x3F00 + pixelNumber (hwAt 0 0) 0 0) < 0x40 ∧
      ppu (hwAt 239 255) (0x3F00 + pixelNumber (hwAt 239 255) 255 239) < 0x40 ∧
      ({ Params.reference with palettePolicy := .mask6 } : Params).palettePolicy = .mask6 ∧
      PixelFits { hwAt 0 0 with bgPatternBase := 0xF010 } 0 0 ∧
      PixelFits { hwAt 6 0 with nametableBase := 0xFC3F, bgPatternBase := 0xFFF1 } 0 6 := by
  unfold PixelFits NextPosition; decide

/-- StepDispatchesThePhaseAction, StepWritesFlagsAndOnePixel, PhaseSevenIsNeverReached, EngineWritesOnlyItsTokens: a STEP that
completes and one that aborts. -/
theorem witness_step_outcomes :
    (∃ t, exec (.step .driver) (sess (hwAt 241 0) []) = .next t ∧ t.status = .running) ∧
      ∃ t rec, exec (.step .driver) (sess (badPalette 0 0) []) = .next t ∧ t.status = .aborted rec :=
  ⟨⟨_, rfl, rfl⟩, ⟨_, _, rfl, rfl⟩⟩

/-- NoActionPhasesDoNothing: a state before a position of each phase. -/
theorem witness_no_action :
    Params.reference.wf ∧ [(0, 256), (0, 320), (239, 340), (241, 1)].map
        (fun q => classify (nextScanline (scan (hwAt q.1 q.2)) (cyc (hwAt q.1 q.2)))
          (nextCycle (cyc (hwAt q.1 q.2)))) =
      [Phase.idleRender, .prefetch, .postrender, .vblankIdle] := by decide

/-- EnterVblankRaisesTheFlag: NMI disabled and enabled. UnreachablePhaseAborts: the least scanline of its range. -/
theorem witness_enter :
    State.reset.hw.nmiEnable = false ∧
      (sess { Hardware.reset with nmiEnable := true } []).hw.nmiEnable = true ∧ (262 ≤ 262) := by decide

/-- The F1 session at the first and at the last Visible position. -/
def f1At (s c : Nat) : State := sess { f1 with scanline := BitVec.ofNat 16 s, cycle := BitVec.ofNat 16 c } []

/-- VisibleRendersThePixel: both ends of the Visible range, with the F1 bases and with bases past those that keep every
pixel's addresses in range (V-PF-5, and the last address of all), and `mask6`; VisibleNeedsACoordinate: the positions
next to the range. -/
theorem witness_visible :
    (VisibleAt (f1At 0 1).hw ∧ VisibleAt (f1At 239 256).hw) ∧
      (PixelFits f1 0 0 ∧ PixelFits f1 255 239 ∧ PixelFits { f1 with bgPatternBase := 0xF010 } 0 0 ∧
        PixelFits { f1 with nametableBase := 0xFC3F, bgPatternBase := 0xFFF0 } 0 7) ∧
      ppu (f1At 0 1).hw (0x3F00 + pixelNumber (f1At 0 1).hw 0 0) < 0x40 ∧
      ({ Params.reference with palettePolicy := .mask6 } : Params).palettePolicy = .mask6 ∧
      ¬ VisibleAt (hwAt 0 0) ∧ ¬ VisibleAt (hwAt 0 257) ∧ ¬ VisibleAt (hwAt 240 1) := by
  unfold VisibleAt PixelFits; decide

/-- V-PF-5: with the pattern base 0xF010 tile 0 lies in range, and the pixel gets palette byte 0x10. -/
theorem test_pixel_high_base : pxOf { f1 with bgPatternBase := 0xF010 } 0 0 = some 0x10 := by decide

/-- VisibleWrapsAddresses: V-PF-6, the pixel (8, 0) with the nametable base at the top, under either palette policy, and
the same with the palette byte 0x40. -/
theorem witness_visible_wraps :
    VisibleAt (f1At 0 9).hw ∧ ({ Params.reference with overflowPolicy := .wrap16 } : Params).overflowPolicy = .wrap16 ∧
      ({ Params.reference with overflowPolicy := .wrap16 } : Params).palettePolicy = .fault ∧
      ({ Params.reference with overflowPolicy := .wrap16, palettePolicy := .mask6 } : Params).palettePolicy = .mask6 ∧
      wrappedPixelNumber { (f1At 0 9).hw with nametableBase := 0xFFFF } 8 0 = 0 ∧
      ppu { (f1At 0 9).hw with nametableBase := 0xFFFF } (0x3F00 + 0) < 0x40 ∧
      wrappedPixelNumber { badPalette 0 9 with nametableBase := 0xFFFF } 8 0 = 0 ∧
      ppu { badPalette 0 9 with nametableBase := 0xFFFF } (0x3F00 + 0) = 0x40 := by
  unfold VisibleAt; decide

/-- VisibleRaisesTheFirstFault: each clause at the least value that overflows, the addresses before it in range
(V-PF-1 to V-PF-4, V-PF-7). -/
theorem witness_first_fault :
    tileAddress 0xFFFF 8 0 = 0x10000 ∧
      (tileAddress 0x2000 0 0 ≤ 0xFFFF ∧ planeAddress 0xF010 0xFF 0 = 0x10000) ∧
      (planeAddress 0xFFF0 0 7 + 8 ≤ 0xFFFF ∧ planeAddress 0xFFF9 0 0 ≤ 0xFFFF ∧
        planeAddress 0xFFF9 0 0 + 8 = 0x10001) ∧
      (tileAddress 0xFC40 0 0 ≤ 0xFFFF ∧ planeAddress 0 0 0 + 8 ≤ 0xFFFF ∧ groupAddress 0xFC40 0 0 = 0x10000) ∧
      groupAddress 0x2000 0 0 ≤ 0xFFFF ∧
      ppu (badPalette 0 1) (0x3F00 + paletteNumber (ppu (badPalette 0 1)) 0x2000 0 0 0) = 0x40 := by decide

/-- PixelDependsOnlyOnItsInputs and VerticalScrollWrapsAt240: VISIBLE that completes, in states that differ in NmiEnable, and in
a scroll of 240 or 255 against 0 or 15. -/
theorem witness_pixel_pairs :
    (∃ t, exec .visible (f1At 0 1) = .next t) ∧
      (∃ t, exec .visible { f1At 0 1 with hw := { (f1At 0 1).hw with nmiEnable := true } } = .next t) ∧
      (∃ t, exec .visible { f1At 0 1 with hw := { (f1At 0 1).hw with scrollY := 240 } } = .next t) ∧
      (∃ t, exec .visible { f1At 0 1 with hw := { (f1At 0 1).hw with scrollY := 255 } } = .next t) ∧
      ∃ t, exec .visible { f1At 0 1 with hw := { (f1At 0 1).hw with scrollY := 255 - 240 } } = .next t :=
  ⟨⟨_, rfl⟩, ⟨_, rfl⟩, ⟨_, rfl⟩, ⟨_, rfl⟩, ⟨_, rfl⟩⟩

/-- EnteringVblankIsTheOnlyNmiSource: a step that latches NMI. OnlyTheCpuEndsAPendingNmi: the CPU clears it (P2). -/
theorem witness_nmi :
    (∃ t, step (sess { hwAt 241 0 with nmiEnable := true } [stepWord]) = .next t ∧ t.hw.intLatch = .nmi ∧
      (hwAt 241 0).intLatch ≠ .nmi) ∧
    ∃ t, step (sess { hwAt 241 1 with intLatch := .nmi } [0x2020000000000000]) = .next t ∧
      t.hw.intLatch ≠ .nmi :=
  ⟨⟨_, rfl, by decide, by decide⟩, ⟨_, rfl, by decide⟩⟩

/-- At reset the pipeline faults at no pixel. -/
theorem reset_pixels : ∀ x y, ∃ i, pixelIndex Params.reference Hardware.reset x y = .ok i := fun x y =>
  pixelIndex_of_ranges _ x y (by decide) (by decide) (by decide)

/-- ScanlineTakes341Steps: reset with that many STEPs issued, and a run that completes. -/
theorem witness_scanline :
    ∃ t, Host.Core.run Sys2Proof.core 341 (sess Hardware.reset (List.replicate 341 stepWord)) = .next t ∧
      t.status = .running := by
  obtain ⟨h, hb⟩ := stepBodies_complete (p := Params.reference) 341 reset_pixels
  exact ⟨_, run_steps (rest := []) (s := sess Hardware.reset (List.replicate 341 stepWord)) rfl
    (List.append_nil _).symm hb, rfl⟩

/-- FirstFrameTimeline: the reset position, with the greatest number of STEPs issued. -/
theorem witness_timeline :
    scan Hardware.reset = 240 ∧ cyc Hardware.reset = 340 ∧ Hardware.reset.vblank = false ∧
      (sess Hardware.reset (List.replicate 7162 stepWord)).commands = List.replicate 7162 stepWord ++ [] :=
  ⟨rfl, rfl, rfl, (List.append_nil _).symm⟩

/-- FrameReturnsToItsPosition, StepFrameIsAFrameOfSteps, StepFrameRendersEveryPixel, PictureIgnoresNmiEnable: a STEP_FRAME
that completes, for either NmiEnable. -/
theorem witness_frame (b : Bool) :
    ∃ t, exec (.stepFrame .driver) (sess { Hardware.reset with nmiEnable := b } []) = .next t ∧
      t.status = .running := by
  have hpix : ∀ x y, ∃ i, pixelIndex Params.reference { Hardware.reset with nmiEnable := b } x y = .ok i :=
    fun x y => pixelIndex_of_ranges _ x y (show Hardware.reset.nametableBase.toNat ≤ _ by decide)
      (show Hardware.reset.bgPatternBase.toNat ≤ _ by decide)
      (show ∀ i, i < 16 → (readByte Hardware.reset.ppuMem (0x3F00 + i)).toNat < 0x40 by decide)
  obtain ⟨h, hb⟩ := stepBodies_complete frameSteps hpix
  have he := execStepFrame_of_none (s := sess { Hardware.reset with nmiEnable := b } []) .driver rfl hb
  exact ⟨_, he, rfl⟩

/-- EnteringVblankIsTheOnlyNmiSource: a STEP_FRAME that completes and whose first STEP enters vertical blank, for either
NmiEnable. -/
theorem witness_frame_enters (b : Bool) :
    FrameEntersVblank (sess { hwAt 241 0 with nmiEnable := b } []) ∧
      ∃ t, exec (.stepFrame .driver) (sess { hwAt 241 0 with nmiEnable := b } []) = .next t := by
  refine ⟨⟨0, _, _, by decide, rfl, rfl, rfl, rfl⟩, ?_⟩
  have hpix : ∀ x y, ∃ i, pixelIndex Params.reference { hwAt 241 0 with nmiEnable := b } x y = .ok i :=
    fun x y => pixelIndex_of_ranges _ x y (show Hardware.reset.nametableBase.toNat ≤ _ by decide)
      (show Hardware.reset.bgPatternBase.toNat ≤ _ by decide)
      (show ∀ i, i < 16 → (readByte Hardware.reset.ppuMem (0x3F00 + i)).toNat < 0x40 by decide)
  obtain ⟨h, hb⟩ := stepBodies_complete frameSteps hpix
  exact ⟨_, execStepFrame_of_none (s := sess { hwAt 241 0 with nmiEnable := b } []) .driver rfl hb⟩

/-- VblankIsWrittenAtItsTwoPositions: STEPs to both positions and a STEP_FRAME, from states that differ in VBlank. -/
theorem witness_vblank :
    ∀ b : Bool, (∃ t, exec (.step .driver) (sess { hwAt 241 0 with vblank := b } []) = .next t ∧ t.status = .running) ∧
      (∃ t, exec (.step .driver) (sess { hwAt 261 0 with vblank := b } []) = .next t ∧ t.status = .running) ∧
      ∃ t, exec (.stepFrame .driver) (sess { badPalette 261 339 with vblank := b } []) = .next t :=
  fun b => by cases b <;> exact ⟨⟨_, rfl, rfl⟩, ⟨_, rfl, rfl⟩, ⟨_, rfl⟩⟩

/-- StepFrameRendersEveryPixel: the bases and the palette bytes of reset are in range. -/
theorem witness_frame_inputs :
    BasesFit Hardware.reset ∧ ∀ i, i < 16 → ppu Hardware.reset (0x3F00 + i) < 0x40 := by
  unfold BasesFit; decide

/-- BlackFrame: P1's PPU memory. -/
theorem witness_black_frame :
    (sess { Hardware.reset with ppuMem := [(0x3F00, 0x0F)] } []).Inv ∧
      (∀ i, i < 0x400 → ppu { Hardware.reset with ppuMem := [(0x3F00, 0x0F)] } (0x2000 + i) = 0) ∧
      (∀ i, i < 16 → ppu { Hardware.reset with ppuMem := [(0x3F00, 0x0F)] } (0 + i) = 0) ∧
      ppu { Hardware.reset with ppuMem := [(0x3F00, 0x0F)] } 0x3F00 = 0x0F := by
  refine ⟨⟨by decide, ⟨rfl, by decide, rfl, rfl, by decide, rfl⟩, fun _ h => by cases h⟩, ?_, by decide, by decide⟩
  intro i hi
  have hne : 0x2000 + i ≠ 0x3F00 := by omega
  simp only [ppu, readByte, readCell, if_neg hne]
  rfl

/-- SessionCreation: cells listed once at the ends of the memories, and one not listed. -/
theorem witness_session :
    (∀ v', (65535, v') ∈ ([(65535, 7)] : List Host.Cell) → v' = 7) ∧
      (∀ v', (256 * 239 + 255, v') ∈ [(256 * 239 + 255, Color.black)] → v' = Color.black) ∧
      ∀ v : Byte, ((0 : Nat), v) ∉ ([(65535, 7)] : List Host.Cell) := by
  simp

end Sys2Proof.Tests
end

namespace Sys2Proof.Machine

open Sys2Proof.Slice0

/-! ### The position a TICK reaches, and the two positions of VBlank (spec R130, R131) -/

theorem tickCycle_eq_nextCycle (c : Nat) : tickCycle c = nextCycle c := by
  unfold tickCycle nextCycle; split_ifs <;> omega

theorem tickScanline_eq_nextScanline (s c : Nat) : tickScanline s c = nextScanline s c := by
  unfold tickScanline tickCarry nextScanline; split_ifs <;> omega

theorem classify_enterVblank {s c : Nat} : classify s c = .enterVblank ↔ s = 241 ∧ c = 1 := by
  unfold classify
  split_ifs <;> simp <;> omega

theorem classify_exitVblank {s c : Nat} : classify s c = .exitVblank ↔ s = 261 ∧ c = 1 := by
  unfold classify
  split_ifs <;> simp <;> omega

/-- A STEP classifies the position that the next TICK reaches (spec R132). -/
theorem phaseOf_tick (p : Params) (h : Hardware) :
    phaseOf (tick p h) = classify (nextScanline (scan h) (cyc h)) (nextCycle (cyc h)) := by
  rw [phaseOf, tick_scanline_toNat, tick_cycle_toNat, tickScanline_eq_nextScanline, tickCycle_eq_nextCycle]
  rfl

theorem phaseOf_tick_enterVblank (p : Params) (h : Hardware) :
    phaseOf (tick p h) = .enterVblank ↔ NextPosition h 241 1 := by
  rw [phaseOf_tick, classify_enterVblank, NextPosition]

theorem phaseOf_tick_exitVblank (p : Params) (h : Hardware) :
    phaseOf (tick p h) = .exitVblank ↔ NextPosition h 261 1 := by
  rw [phaseOf_tick, classify_exitVblank, NextPosition]

/-! ### What is written to VBlank (spec R33) -/

/-- An action raises VBlank at ENTER_VBLANK, clears it at EXIT_VBLANK, and leaves it elsewhere. -/
theorem ActionEffect.vblank_iff {h h' : Hardware} (e : ActionEffect h h') :
    h'.vblank = true ↔ phaseOf h = .enterVblank ∨ (h.vblank = true ∧ phaseOf h ≠ .exitVblank) := by
  cases e with
  | nothing off enter exit => simp [enter, exit]
  | pixel at' col => simp [at']
  | raised at' => simp [at']
  | cleared at' => simp [at']

/-- A completed STEP body writes VBlank at (241, 1) and at (261, 1) alone. -/
theorem stepBody_vblank_iff {p : Params} {h h' : Hardware} (hb : stepBody p h = .ok h') :
    h'.vblank = true ↔ NextPosition h 241 1 ∨ (h.vblank = true ∧ ¬ NextPosition h 261 1) := by
  rw [(stepBody_ok hb).vblank_iff, phaseOf_tick_enterVblank, tick_vblank, Ne, phaseOf_tick_exitVblank]

/-- A STEP that ends in a running session completed its body. -/
theorem stepBody_of_execStep_running {s t : State} {ag : Agent} (h : execStep ag s = .next t)
    (ht : t.status = .running) : stepBody s.params s.hw = .ok t.hw := by
  obtain ⟨-, ⟨h', hb, rfl⟩ | ⟨rec, -, rfl⟩⟩ := execStep_next h
  · exact hb
  · cases ht

/-- A STORE of a Bool's code to VBlank writes the Bool and nothing else (spec R88, R111). -/
theorem exec_store_vblank {s : State} (ag : Agent) (b : Bool) (hs : s.status = .running) :
    exec (.store ag (.token .vblank) (encodeValue .bool b)) s =
      .next { s with hw := { s.hw with vblank := b }, result := none } := by
  cases b <;> exact ifRunning_running _ hs

/-- A LOAD of VBlank answers its code (spec R88, R110). -/
theorem exec_load_vblank {s : State} (ag : Agent) (hs : s.status = .running) :
    exec (.load ag (.token .vblank)) s = .next { s with result := some (if s.hw.vblank then 1 else 0) } :=
  ifRunning_running _ hs

/-! ### No STEP reads VBlank (spec R33)

Each fact compares a computation from `h` with the same one from `h` with another VBlank: the faults are the same, and
the Hardware States differ in VBlank alone. -/

theorem tick_set_vblank (p : Params) (h : Hardware) (b : Bool) :
    tick p { h with vblank := b } = { tick p h with vblank := b } := rfl

theorem renderPixel_set_vblank (p : Params) (h : Hardware) (x y : Nat) (b : Bool) :
    renderPixel p { h with vblank := b } x y = (renderPixel p h x y).map ({ · with vblank := b }) := by
  have hpix : pixelIndex p { h with vblank := b } x y = pixelIndex p h x y :=
    pixelIndex_congr rfl rfl rfl rfl fun _ => rfl
  rw [renderPixel, renderPixel, hpix]
  cases pixelIndex p h x y <;> rfl

/-- ENTER_VBLANK and EXIT_VBLANK end with their own VBlank, the other actions with the one they found. -/
theorem phaseAction_set_vblank (p : Params) (ph : Phase) (h : Hardware) (b : Bool) :
    ∃ c, phaseAction p ph { h with vblank := b } = (phaseAction p ph h).map ({ · with vblank := c }) := by
  cases ph with
  | visible => exact ⟨b, renderPixel_set_vblank p h _ _ b⟩
  | enterVblank => exact ⟨true, rfl⟩
  | exitVblank => exact ⟨false, rfl⟩
  | _ => exact ⟨b, rfl⟩

theorem stepBody_set_vblank (p : Params) (h : Hardware) (b : Bool) :
    ∃ c, stepBody p { h with vblank := b } = (stepBody p h).map ({ · with vblank := c }) := by
  obtain ⟨c, hc⟩ := phaseAction_set_vblank p (phaseOf (tick p h)) (tick p h) b
  have hphase : phaseOf { tick p h with vblank := b } = phaseOf (tick p h) := rfl
  refine ⟨c, ?_⟩
  simp only [stepBody, tick_set_vblank, hphase, hc]
  cases phaseAction p (phaseOf (tick p h)) (tick p h) <;> rfl

theorem stepBodies_set_vblank (p : Params) (n : Nat) (h : Hardware) (b : Bool) :
    ∃ c, stepBodies p n { h with vblank := b } =
      ({ (stepBodies p n h).1 with vblank := c }, (stepBodies p n h).2) := by
  induction n generalizing h b with
  | zero => exact ⟨b, rfl⟩
  | succ n ih =>
    obtain ⟨c, hc⟩ := stepBody_set_vblank p h b
    rw [stepBodies, stepBodies, hc]
    cases stepBody p h with
    | error rec => exact ⟨b, rfl⟩
    | ok h' => exact ih h' c

theorem execStep_set_vblank {s t : State} {ag : Agent} (b : Bool) (h : execStep ag s = .next t) :
    ∃ c, execStep ag { s with hw := { s.hw with vblank := b } } =
      .next { t with hw := { t.hw with vblank := c } } := by
  obtain ⟨c, hc⟩ := stepBody_set_vblank s.params s.hw b
  obtain ⟨hs, ⟨h', hb, rfl⟩ | ⟨rec, hb, rfl⟩⟩ := execStep_next h <;> rw [hb] at hc
  · exact ⟨c, execStep_of_ok ag hs hc⟩
  · exact ⟨b, execStep_of_error ag hs hc⟩

/-- A STEP_FRAME whose bodies stop at a fault takes it from the state before the faulting body (spec R142, R202). -/
theorem execStepFrame_of_some {s : State} {h' : Hardware} {rec : FaultRecord} (ag : Agent)
    (hs : s.status = .running) (hb : stepBodies s.params frameSteps s.hw = (h', some rec)) :
    execStepFrame ag s = .next (takeFault s h' rec) := by
  rw [execStepFrame, ifRunning_running _ hs, hb]

theorem execStepFrame_set_vblank {s t : State} {ag : Agent} (b : Bool) (h : execStepFrame ag s = .next t) :
    ∃ c, execStepFrame ag { s with hw := { s.hw with vblank := b } } =
      .next { t with hw := { t.hw with vblank := c } } := by
  obtain ⟨c, hc⟩ := stepBodies_set_vblank s.params frameSteps s.hw b
  obtain ⟨hs, ⟨h', hb, rfl⟩ | ⟨h', rec, hb, rfl⟩⟩ := execStepFrame_next h <;> rw [hb] at hc
  · exact ⟨c, execStepFrame_of_none ag hs hc⟩
  · exact ⟨c, execStepFrame_of_some ag hs hc⟩

/-- STEP and STEP_FRAME from states that differ in VBlank end in states that differ in VBlank at most. -/
theorem exec_set_vblank {s t t' : State} {ag : Agent} {i : Instr} (b : Bool) (hi : i = .step ag ∨ i = .stepFrame ag)
    (h : exec i s = .next t) (h' : exec i { s with hw := { s.hw with vblank := b } } = .next t') :
    t' = { t with hw := { t.hw with vblank := t'.hw.vblank } } := by
  have hc : ∃ c, exec i { s with hw := { s.hw with vblank := b } } =
      .next { t with hw := { t.hw with vblank := c } } := by
    obtain rfl | rfl := hi
    · exact execStep_set_vblank (ag := ag) b h
    · exact execStepFrame_set_vblank (ag := ag) b h
  obtain ⟨c, hc⟩ := hc
  cases hc.symm.trans h'
  rfl

/-- Settles O53: the two writing positions are those CLASSIFY gives the two actions that write VBlank, and a STEP or a
STEP_FRAME from a state with another VBlank is followed body by body. -/
theorem vblankIsWrittenAtItsTwoPositions : Obligations.VblankIsWrittenAtItsTwoPositions := by
  refine ⟨?steps, ?accesses, ?creation, ?unread⟩
  case steps =>
    intro s t ag _ h ht
    exact stepBody_vblank_iff (stepBody_of_execStep_running (ag := ag) h ht)
  case accesses =>
    intro s ag hs
    exact ⟨exec_store_vblank ag false hs, exec_store_vblank ag true hs, exec_load_vblank ag hs⟩
  case creation => exact fun _ _ _ => rfl
  case unread => exact fun s t t' ag i b _ hi h h' => exec_set_vblank b hi h h'

end Sys2Proof.Machine

namespace Sys2Proof.Machine

/-! ### Which accesses complete (spec R112, R113) -/

/-- A LOAD of a valid token in a running session answers with its cell (spec R110). -/
theorem execLoad_of_token {s : State} (ag : Agent) (t : Token) (hs : s.status = .running) :
    execLoad ag (.token t) s = .next (answer s (encodeValue t.valueType (s.hw.load t))) :=
  ifRunning_running _ hs

/-- A STORE that passes checks 5 to 7 writes its cell (spec R111). -/
theorem execStore_of_allowed {s : State} {ag : Agent} {t : Token} {val : ValueField} {v : t.Value}
    (hs : s.status = .running) (hv : decodeValue s.params.frameWidth t.valueType val = some v)
    (hp : protocolForbids ag s.hw t v = false) :
    execStore ag (.token t) val s = .next (complete s (s.hw.store t (storedValue s.params s.hw t v))) := by
  simp [execStore, hs, hv, hp]

/-- A STORE of a value of its token's type completes exactly when the latch protocol allows it. -/
theorem execStore_completes_iff {s : State} {ag : Agent} {t : Token} {val : ValueField} {v : t.Value}
    (hs : s.status = .running) (hv : decodeValue s.params.frameWidth t.valueType val = some v) :
    (∃ u, execStore ag (.token t) val s = .next u ∧ u.status = .running) ↔
      protocolForbids ag s.hw t v = false := by
  constructor
  · rintro ⟨u, hu, hr⟩
    obtain ⟨-, ⟨tok, w, ht, hw, hp, -⟩ | ⟨c, -, rfl⟩⟩ := execStore_next hu
    · cases ht
      cases hv.symm.trans hw
      exact hp
    · cases hr
  · exact fun hp => ⟨_, execStore_of_allowed hs hv hp, hs⟩

/-- A value decodes to NMI exactly when it is 1 (spec R38, R88). -/
theorem decodeValue_latch_eq_nmi {W : Nat} {val : ValueField} {l : IntLatch}
    (h : decodeValue W .latch val = some l) : l = .nmi ↔ val = 1 := by
  simp only [decodeValue] at h
  split at h
  · cases h
    rw [latchOfCode_eq_nmi]
    bv_omega
  · cases h

theorem latchForbids_iff {ag : Agent} {current new : IntLatch} :
    latchForbids ag current new = true ↔ new = .nmi ∨ (current = .nmi ∧ ag ≠ .cpu) := by
  simp [latchForbids]

/-- The latch protocol forbids storing NMI to the latch, and replacing a pending NMI for any agent but the CPU; it
forbids no STORE to another token (spec R113). -/
theorem protocolForbids_iff {W : Nat} {ag : Agent} {h : Hardware} {t : Token} {val : ValueField} {v : t.Value}
    (hv : decodeValue W t.valueType val = some v) :
    protocolForbids ag h t v = true ↔
      t = .intLatch ∧ (val = 1 ∨ (h.intLatch = .nmi ∧ ag ≠ .cpu)) := by
  cases t with
  | intLatch =>
    have hn : v = .nmi ↔ val = 1 := decodeValue_latch_eq_nmi hv
    rw [and_iff_right rfl]
    exact latchForbids_iff.trans (or_congr_left hn)
  | _ => simp [protocolForbids]

/-- Settles O14: a LOAD of a token has no check left to fail, and a STORE whose value decodes has check 7 alone, which
only the latch's token can fail. -/
theorem accessesAreTotal : Obligations.AccessesAreTotal := by
  intro s ag t hs
  refine ⟨⟨_, execLoad_of_token ag t hs, hs⟩, fun val hval => ?_⟩
  obtain ⟨v, hv⟩ := Option.isSome_iff_exists.mp ((decodeValue_isSome _ _ _).trans hval)
  calc t = .intLatch ∧ (val = 1 ∨ (s.hw.intLatch = .nmi ∧ ag ≠ .cpu))
      ↔ protocolForbids ag s.hw t v = true := (protocolForbids_iff hv).symm
    _ ↔ ¬ protocolForbids ag s.hw t v = false := by simp
    _ ↔ ¬ ∃ u, exec (.store ag (.token t) val) s = .next u ∧ u.status = .running :=
      not_congr (execStore_completes_iff hs hv).symm

end Sys2Proof.Machine

namespace Sys2Proof.Machine

open Sys2Proof.Slice0

/-! ### What the bodies of STEP do to the latch (spec R138, R206) -/

/-- From `h` to `h'` the engine kept NmiEnable, and latched NMI exactly where it entered vertical blank with NmiEnable
true. -/
structure NmiEffect (entered : Prop) (h h' : Hardware) : Prop where
  nmiEnable : h'.nmiEnable = h.nmiEnable
  latched : entered → h.nmiEnable = true → h'.intLatch = .nmi
  kept : ¬ (entered ∧ h.nmiEnable = true) → h'.intLatch = h.intLatch

theorem NmiEffect.refl {entered : Prop} (hn : ¬ entered) (h : Hardware) : NmiEffect entered h h :=
  ⟨rfl, fun he => absurd he hn, fun _ => rfl⟩

/-- A part that does not latch NMI leaves one latched by the part before it. -/
theorem NmiEffect.trans {a b : Prop} {h h1 h2 : Hardware} (e1 : NmiEffect a h h1) (e2 : NmiEffect b h1 h2) :
    NmiEffect (a ∨ b) h h2 where
  nmiEnable := e2.nmiEnable.trans e1.nmiEnable
  latched hab hen := by
    by_cases hb : b
    · exact e2.latched hb (e1.nmiEnable.trans hen)
    · rw [e2.kept fun hc => hb hc.1]
      exact e1.latched (hab.resolve_right hb) hen
  kept hn := by
    have hna : ¬ (a ∧ h.nmiEnable = true) := fun hc => hn ⟨.inl hc.1, hc.2⟩
    have hnb : ¬ (b ∧ h1.nmiEnable = true) := fun hc => hn ⟨.inr hc.1, e1.nmiEnable ▸ hc.2⟩
    rw [e2.kept hnb, e1.kept hna]

/-- A newly latched NMI shows that vertical blank was entered with NmiEnable true. -/
theorem NmiEffect.entered_of_new {entered : Prop} {h h' : Hardware} (e : NmiEffect entered h h')
    (hnew : h'.intLatch = .nmi) (hold : h.intLatch ≠ .nmi) : entered ∧ h.nmiEnable = true := by
  by_contra hn
  exact hold ((e.kept hn).symm.trans hnew)

/-- ENTER_VBLANK is the one action that writes the latch, and none writes NmiEnable. -/
theorem ActionEffect.nmiEffect {h h' : Hardware} (e : ActionEffect h h') :
    NmiEffect (phaseOf h = .enterVblank) h h' := by
  cases e with
  | nothing off enter exit => exact .refl enter h
  | pixel at' col => exact ⟨rfl, by simp [at'], fun _ => rfl⟩
  | raised at' => exact ⟨rfl, fun _ hen => if_pos hen, fun hn => if_neg fun hen => hn ⟨at', hen⟩⟩
  | cleared at' => exact ⟨rfl, by simp [at'], fun _ => rfl⟩

theorem stepBody_nmiEffect {p : Params} {h h' : Hardware} (hb : stepBody p h = .ok h') :
    NmiEffect (NextPosition h 241 1) h h' := by
  obtain ⟨hen, hlatched, hkept⟩ := (stepBody_ok hb).nmiEffect
  rw [phaseOf_tick_enterVblank] at hlatched hkept
  exact ⟨hen, hlatched, hkept⟩

/-! ### The bodies of STEP_FRAME (spec R142) -/

/-- One of the first `n` STEP bodies from `h` completes and enters vertical blank at (241, 1). -/
def BodiesEnterVblank (p : Params) (n : Nat) (h : Hardware) : Prop :=
  ∃ k h1 h2, k < n ∧ stepBodies p k h = (h1, none) ∧ stepBody p h1 = .ok h2 ∧ NextPosition h1 241 1

theorem frameEntersVblank_iff (s : State) :
    FrameEntersVblank s ↔ BodiesEnterVblank s.params frameSteps s.hw := Iff.rfl

theorem not_bodiesEnterVblank_zero (p : Params) (h : Hardware) : ¬ BodiesEnterVblank p 0 h := by
  rintro ⟨k, -, -, hk, -⟩
  exact Nat.not_lt_zero k hk

/-- No body completes after a first one that faults. -/
theorem not_bodiesEnterVblank_of_error {p : Params} {h : Hardware} {rec : FaultRecord}
    (hb : stepBody p h = .error rec) (n : Nat) : ¬ BodiesEnterVblank p n h := by
  rintro ⟨k, h1, h2, -, hk, hb1, -⟩
  cases k with
  | zero => cases hk; cases hb.symm.trans hb1
  | succ k => rw [stepBodies, hb] at hk; cases hk

/-- After a first body that completes, vertical blank is entered by that one or by a later one. -/
theorem bodiesEnterVblank_succ {p : Params} {h h' : Hardware} (hb : stepBody p h = .ok h') (n : Nat) :
    BodiesEnterVblank p (n + 1) h ↔ NextPosition h 241 1 ∨ BodiesEnterVblank p n h' := by
  constructor
  · rintro ⟨k, h1, h2, hk, hks, hb1, hpos⟩
    cases k with
    | zero => cases hks; exact .inl hpos
    | succ k =>
      rw [stepBodies, hb] at hks
      exact .inr ⟨k, h1, h2, Nat.lt_of_succ_lt_succ hk, hks, hb1, hpos⟩
  · rintro (hpos | ⟨k, h1, h2, hk, hks, hb1, hpos⟩)
    · exact ⟨0, h, h', Nat.succ_pos n, rfl, hb, hpos⟩
    · exact ⟨k + 1, h1, h2, Nat.succ_lt_succ hk, by rw [stepBodies, hb]; exact hks, hb1, hpos⟩

theorem stepBodies_nmiEffect (p : Params) (n : Nat) (h : Hardware) :
    NmiEffect (BodiesEnterVblank p n h) h (stepBodies p n h).1 := by
  induction n generalizing h with
  | zero => exact .refl (not_bodiesEnterVblank_zero p h) h
  | succ n ih =>
    rw [stepBodies]
    cases hb : stepBody p h with
    | error rec => exact .refl (not_bodiesEnterVblank_of_error hb (n + 1)) h
    | ok h' =>
      rw [bodiesEnterVblank_succ hb]
      exact (stepBody_nmiEffect hb).trans (ih h')

/-- A STEP_FRAME keeps the latch effect of its completed STEPs, whether it completes or aborts (spec R202). -/
theorem execStepFrame_nmiEffect {s t : State} {ag : Agent} (h : execStepFrame ag s = .next t) :
    NmiEffect (FrameEntersVblank s) s.hw t.hw := by
  have hb : (stepBodies s.params frameSteps s.hw).1 = t.hw := by
    obtain ⟨-, ⟨h', hb, rfl⟩ | ⟨h', rec, hb, rfl⟩⟩ := execStepFrame_next h <;> rw [hb] <;> rfl
  rw [frameEntersVblank_iff, ← hb]
  exact stepBodies_nmiEffect s.params frameSteps s.hw

/-! ### What the commands do to the latch (spec R113, R206) -/

theorem execLoad_hw {s t : State} {ag : Agent} {r : TokenRef} (h : execLoad ag r s = .next t) : t.hw = s.hw := by
  obtain ⟨-, ⟨tok, -, rfl⟩ | ⟨w, -, rfl⟩⟩ := execLoad_next h <;> rfl

/-- A STORE writes the latch only at the latch's own token, and only as check 7 allows. -/
theorem execStore_intLatch {s t : State} {ag : Agent} {r : TokenRef} {val : ValueField}
    (h : execStore ag r val s = .next t) :
    t.hw.intLatch = s.hw.intLatch ∨
      (r = .token .intLatch ∧ latchForbids ag s.hw.intLatch t.hw.intLatch = false) := by
  obtain ⟨-, ⟨tok, v, rfl, -, hallowed, rfl⟩ | ⟨c, -, rfl⟩⟩ := execStore_next h
  · by_cases htok : tok = .intLatch
    · subst htok
      exact .inr ⟨rfl, hallowed⟩
    · exact .inl (load_store_other s.hw (storedValue s.params s.hw tok v) (Ne.symm htok))
  · exact .inl rfl

/-- No STORE makes the latch hold NMI: check 7 forbids that value (spec R113). -/
theorem intLatch_eq_nmi_of_execStore {s t : State} {ag : Agent} {r : TokenRef} {val : ValueField}
    (h : execStore ag r val s = .next t) (hnmi : t.hw.intLatch = .nmi) : s.hw.intLatch = .nmi := by
  obtain hkept | ⟨-, hallowed⟩ := execStore_intLatch h
  · exact hkept.symm.trans hnmi
  · have hforbidden : latchForbids ag s.hw.intLatch t.hw.intLatch = true := latchForbids_iff.mpr (.inl hnmi)
    cases hforbidden.symm.trans hallowed

/-- A STEP that newly latches NMI entered vertical blank with NmiEnable true: a faulting one leaves the latch. -/
theorem execStep_newNmi {s t : State} {ag : Agent} (h : execStep ag s = .next t) (hnew : t.hw.intLatch = .nmi)
    (hold : s.hw.intLatch ≠ .nmi) : NextPosition s.hw 241 1 ∧ s.hw.nmiEnable = true := by
  obtain ⟨-, ⟨h', hb, rfl⟩ | ⟨rec, -, rfl⟩⟩ := execStep_next h
  · exact (stepBody_nmiEffect hb).entered_of_new hnew hold
  · exact absurd hnew hold

/-- A command that newly latches NMI is a STEP or a STEP_FRAME that entered vertical blank with NmiEnable true. -/
theorem exec_newNmi {s t : State} {w : CommandWord} {i : Instr} (hw : decodeCommand w = .ok i)
    (h : exec i s = .next t) (hnew : t.hw.intLatch = .nmi) (hold : s.hw.intLatch ≠ .nmi) :
    s.hw.nmiEnable = true ∧ ∃ ag,
      (i = .step ag ∧ NextPosition s.hw 241 1) ∨ (i = .stepFrame ag ∧ FrameEntersVblank s) := by
  obtain ⟨ag, r, rfl⟩ | ⟨ag, r, v, rfl⟩ | ⟨ag, rfl⟩ | ⟨ag, rfl⟩ := decodeCommand_ok hw
  · exact absurd (execLoad_hw (ag := ag) h ▸ hnew) hold
  · exact absurd (intLatch_eq_nmi_of_execStore (ag := ag) h hnew) hold
  · obtain ⟨hpos, hen⟩ := execStep_newNmi (ag := ag) h hnew hold
    exact ⟨hen, ag, .inl ⟨rfl, hpos⟩⟩
  · obtain ⟨hpos, hen⟩ := (execStepFrame_nmiEffect (ag := ag) h).entered_of_new hnew hold
    exact ⟨hen, ag, .inr ⟨rfl, hpos⟩⟩

/-- Settles O38: the latch effect of one STEP body composes over the bodies of a STEP_FRAME, a LOAD and a rejected word
leave the latch, and check 7 keeps a STORE from writing NMI. -/
theorem enteringVblankIsTheOnlyNmiSource : Obligations.EnteringVblankIsTheOnlyNmiSource := by
  refine ⟨?steps, ?frames, ?sources⟩
  case steps =>
    intro s t ag _ h ht
    have e := stepBody_nmiEffect (stepBody_of_execStep_running (ag := ag) h ht)
    exact ⟨e.latched, e.kept⟩
  case frames =>
    intro s t ag _ h
    have e := execStepFrame_nmiEffect (ag := ag) h
    exact ⟨e.latched, e.kept⟩
  case sources =>
    intro s t h hnew hold
    obtain ⟨-, ⟨-, rfl⟩ | ⟨w, rest, hc, ⟨i, hi, hexec⟩ | ⟨-, rfl⟩⟩⟩ := step_next h
    · exact absurd hnew hold
    · obtain ⟨hen, ag, hsrc⟩ := exec_newNmi hi hexec hnew hold
      refine ⟨hen, w, rest, ag, hc, ?_⟩
      obtain ⟨rfl, hpos⟩ | ⟨rfl, hpos⟩ := hsrc
      · exact .inl ⟨hi, hpos⟩
      · exact .inr ⟨hi, hpos⟩
    · exact absurd hnew hold

end Sys2Proof.Machine

namespace Sys2Proof

open Sys2Proof.Slice0

/-! ### A word is its fields (spec R80, R85) -/

theorem tokenWord_fields (t : TokenWord) : kindField t ++ tzField t ++ indexField t = t := by
  rw [kindField, tzField, indexField,
    BitVec.extractLsb'_append_extractLsb'_eq_extractLsb' (show 24 = 16 + 8 from rfl),
    BitVec.extractLsb'_append_extractLsb'_eq_extractLsb' (show 16 = 0 + 16 from rfl)]
  exact BitVec.extractLsb'_eq_self

theorem commandWord_fields {w : CommandWord} (hrsv : rsvField w = 0#2) :
    commandWord (opField w) (decodeAgent (agField w)) (tokField w) (valField w) = w := by
  rw [commandWord, encodeAgent_decodeAgent, ← hrsv, opField, agField, rsvField, tokField, valField,
    BitVec.extractLsb'_append_extractLsb'_eq_extractLsb' (show 60 = 58 + 2 from rfl),
    BitVec.extractLsb'_append_extractLsb'_eq_extractLsb' (show 58 = 56 + 2 from rfl),
    BitVec.extractLsb'_append_extractLsb'_eq_extractLsb' (show 56 = 24 + 32 from rfl),
    BitVec.extractLsb'_append_extractLsb'_eq_extractLsb' (show 24 = 0 + 24 from rfl)]
  exact BitVec.extractLsb'_eq_self

/-! ### Tokens (spec R86, R87) -/

theorem screenToken_index (x : Byte) (y : Fin 240) :
    screenToken (BitVec.ofNat 8 y.val ++ x) = some (.screen x y) := by
  have hy : (BitVec.ofNat 8 y.val).toNat = y.val := by
    rw [BitVec.toNat_ofNat, Nat.mod_eq_of_lt (by omega)]
  rw [screenToken, high_append, low_append, dif_pos (by omega)]
  simp [hy]

theorem tokenOfKind_kind_index (t : Token) : tokenOfKind t.kind t.index = some t := by
  cases t with
  | cpuReg r => simp [tokenOfKind, Token.kind, Token.index]
  | spriteMem i =>
    have hi : (0#8 ++ i : Half).toNat ≤ 0xFF := by rw [BitVec.toNat_append]; simp; omega
    simp [tokenOfKind, Token.kind, Token.index, hi, low_append]
  | screen x y => simp [tokenOfKind, Token.kind, Token.index, screenToken_index]
  | _ => simp [tokenOfKind, Token.kind, Token.index, singleToken]

theorem kind_index_of_screenToken {n : Half} {t : Token} (h : screenToken n = some t) :
    t.kind = 0x1B#8 ∧ t.index = n := by
  unfold screenToken at h
  split at h
  · cases h
    refine ⟨rfl, ?_⟩
    rw [Token.index, BitVec.ofNat_toNat, BitVec.setWidth_eq, append_halves]
  · cases h

theorem kind_index_of_singleToken {k : Byte} {n : Half} {t u : Token} (h : singleToken t n = some u) (hk : k = t.kind)
    (ht : t.index = 0#16) : u.kind = k ∧ u.index = n := by
  unfold singleToken at h
  split at h
  · next hn => cases h; exact ⟨hk.symm, ht.trans hn.symm⟩
  · cases h

theorem zero_append_low {n : Half} (h : n.toNat ≤ 0xFF) : (0#8 ++ n.extractLsb' 0 8 : Half) = n := by
  have hhigh : n.extractLsb' 8 8 = 0#8 := by
    apply BitVec.eq_of_toNat_eq
    rw [BitVec.extractLsb'_toNat, Nat.shiftRight_eq_div_pow, Nat.div_eq_of_lt (by omega)]
    rfl
  rw [← hhigh, append_halves]

/-- The assigned kinds and the indexes in their ranges are those of the tokens. -/
theorem kind_index_of_tokenOfKind {k : Byte} {n : Half} {t : Token} (h : tokenOfKind k n = some t) :
    t.kind = k ∧ t.index = n := by
  unfold tokenOfKind at h
  obtain ⟨hk, h⟩ | ⟨-, h⟩ := ite_eq_iff.mp h
  · obtain ⟨r, hr, rfl⟩ := Option.map_eq_some_iff.mp h
    exact ⟨hk.symm, encodeCpuReg_of_decodeCpuReg hr⟩
  obtain ⟨hk, h⟩ | ⟨-, h⟩ := ite_eq_iff.mp h
  · cases h; exact ⟨hk.symm, rfl⟩
  iterate 9
    obtain ⟨hk, h⟩ | ⟨-, h⟩ := ite_eq_iff.mp h
    · exact kind_index_of_singleToken h hk rfl
  obtain ⟨hk, h⟩ | ⟨-, h⟩ := ite_eq_iff.mp h
  · cases h; exact ⟨hk.symm, rfl⟩
  obtain ⟨hk, h⟩ | ⟨-, h⟩ := ite_eq_iff.mp h
  · obtain ⟨hn, h⟩ | ⟨-, h⟩ := ite_eq_iff.mp h
    · cases h; exact ⟨hk.symm, zero_append_low hn⟩
    · cases h
  obtain ⟨hk, h⟩ | ⟨-, h⟩ := ite_eq_iff.mp h
  · exact hk ▸ kind_index_of_screenToken h
  obtain ⟨hk, h⟩ | ⟨-, h⟩ := ite_eq_iff.mp h
  · exact kind_index_of_singleToken h hk rfl
  cases h

theorem tokenOfKind_eq_some {k : Byte} {n : Half} {t : Token} :
    tokenOfKind k n = some t ↔ t.kind = k ∧ t.index = n :=
  ⟨kind_index_of_tokenOfKind, fun ⟨hk, hn⟩ => hk ▸ hn ▸ tokenOfKind_kind_index t⟩

/-- A token word names a token exactly when it is that token's word. -/
theorem tokenOfWord_eq_some {w : TokenWord} {t : Token} : tokenOfWord w = some t ↔ w = t.word := by
  constructor
  · intro h
    unfold tokenOfWord at h
    split at h
    next htz =>
      obtain ⟨hk, hn⟩ := tokenOfKind_eq_some.mp h
      rw [Token.word, hk, hn, ← htz, tokenWord_fields]
    cases h
  · rintro rfl
    simp [tokenOfWord, tokenOfKind_kind_index]

theorem decodeToken_word (t : Token) : decodeToken t.word = .token t := by
  rw [decodeToken, tokenOfWord_eq_some.mpr rfl]

theorem decodeToken_encodeToken {t : TokenRef} (h : CanonicalRef t) : decodeToken (encodeToken t) = t := by
  cases t with
  | token t => exact decodeToken_word t
  | invalid w =>
    have hw : tokenOfWord w = none := h
    rw [decodeToken, encodeToken, hw]

theorem canonicalRef_decodeToken (w : TokenWord) : CanonicalRef (decodeToken w) := by
  unfold decodeToken
  split
  · trivial
  · assumption

theorem encodeToken_decodeToken (w : TokenWord) : encodeToken (decodeToken w) = w := by
  unfold decodeToken
  split
  · next h => exact (tokenOfWord_eq_some.mp h).symm
  · rfl

/-! ### Commands (spec R91) -/

/-- Checks 1 to 4 and the instruction of each opcode, as one equivalence. -/
theorem decodeCommand_eq_ok {w : CommandWord} {i : Instr} :
    decodeCommand w = .ok i ↔ rsvField w = 0#2 ∧
      ((opField w = 0x1#4 ∧ valField w = 0#24 ∧
          i = .load (decodeAgent (agField w)) (decodeToken (tokField w))) ∨
        (opField w = 0x2#4 ∧ i = .store (decodeAgent (agField w)) (decodeToken (tokField w)) (valField w)) ∨
        (opField w = 0x3#4 ∧ tokField w = 0#32 ∧ valField w = 0#24 ∧ i = .step (decodeAgent (agField w))) ∨
        (opField w = 0x4#4 ∧ tokField w = 0#32 ∧ valField w = 0#24 ∧
          i = .stepFrame (decodeAgent (agField w)))) := by
  unfold decodeCommand
  generalize opField w = op
  by_cases hr : rsvField w = 0#2
  case neg =>
    simp only [hr, false_and, iff_false]
    split_ifs <;> simp_all
  by_cases h1 : op = 0x1#4
  · by_cases hv : valField w = 0#24 <;> simp [h1, hr, hv, @eq_comm _ i]
  by_cases h2 : op = 0x2#4
  · simp [h2, hr, @eq_comm _ i]
  by_cases h3 : op = 0x3#4
  · by_cases ht : tokField w = 0#32 <;> by_cases hv : valField w = 0#24 <;> simp [h3, hr, ht, hv, @eq_comm _ i]
  by_cases h4 : op = 0x4#4
  · by_cases ht : tokField w = 0#32 <;> by_cases hv : valField w = 0#24 <;> simp [h4, hr, ht, hv, @eq_comm _ i]
  simp [h1, h2, h3, h4]

theorem encode_phase (ph : Phase) : encode ph.instr = .phase ph.code := by cases ph <;> rfl

theorem canonicalOperands_phase (ph : Phase) : CanonicalOperands ph.instr := by cases ph <;> trivial

theorem decode_encode_phase (ph : Phase) : decode (encode ph.instr) = .ok ph.instr := by
  rw [encode_phase, decode, decodePhase_code]

/-- Settles O2: the fields of an encoded word read back, and a canonical operand is what its token word decodes to. -/
theorem decodeOfEncode : Obligations.DecodeOfEncode := by
  intro i hi
  cases i with
  | load ag t =>
    exact decodeCommand_eq_ok.mpr ⟨rsvField_commandWord .., .inl (by simp [decodeToken_encodeToken hi])⟩
  | store ag t v =>
    exact decodeCommand_eq_ok.mpr ⟨rsvField_commandWord .., .inr (.inl (by simp [decodeToken_encodeToken hi]))⟩
  | step ag => exact decodeCommand_eq_ok.mpr ⟨rsvField_commandWord .., .inr (.inr (.inl (by simp)))⟩
  | stepFrame ag => exact decodeCommand_eq_ok.mpr ⟨rsvField_commandWord .., .inr (.inr (.inr (by simp)))⟩
  | idleRender => exact decode_encode_phase .idleRender
  | visible => exact decode_encode_phase .visible
  | prefetch => exact decode_encode_phase .prefetch
  | postrender => exact decode_encode_phase .postrender
  | enterVblank => exact decode_encode_phase .enterVblank
  | vblankIdle => exact decode_encode_phase .vblankIdle
  | exitVblank => exact decode_encode_phase .exitVblank
  | unreachable => exact decode_encode_phase .unreachable

/-- A command word that decodes is the encoding of its instruction, whose operands are canonical. -/
theorem encode_of_decodeCommand {w : CommandWord} {i : Instr} (h : decodeCommand w = .ok i) :
    encode i = .command w ∧ CanonicalOperands i := by
  obtain ⟨hrsv, h⟩ := decodeCommand_eq_ok.mp h
  have hw := commandWord_fields hrsv
  obtain ⟨hop, hval, rfl⟩ | ⟨hop, rfl⟩ | ⟨hop, htok, hval, rfl⟩ | ⟨hop, htok, hval, rfl⟩ := h
  · rw [hop, hval] at hw
    exact ⟨by rw [encode, encodeToken_decodeToken]; exact congrArg _ hw, canonicalRef_decodeToken _⟩
  · rw [hop] at hw
    exact ⟨by rw [encode, encodeToken_decodeToken]; exact congrArg _ hw, canonicalRef_decodeToken _⟩
  · rw [hop, htok, hval] at hw
    exact ⟨congrArg _ hw, trivial⟩
  · rw [hop, htok, hval] at hw
    exact ⟨congrArg _ hw, trivial⟩

/-- Settles O3: an accepted word is rebuilt from its fields, and a phase code from its phase. -/
theorem encodeOfDecode : Obligations.EncodeOfDecode := by
  intro c i h
  cases c with
  | command w => exact encode_of_decodeCommand h
  | phase c =>
    cases h
    exact ⟨by rw [encode_phase, code_decodePhase], canonicalOperands_phase _⟩

/-- Settles O1: each word is decoded as it stands. -/
theorem specWordsDecode : Obligations.SpecWordsDecode := by
  unfold Obligations.SpecWordsDecode
  decide

end Sys2Proof

namespace Sys2Proof.Machine

/-! ### What keeps the Hardware State well typed (spec R27, R38, R60) -/

/-- A STORE of a value that decodes for its token, mapped cell or not. -/
theorem Hardware.Wf.store {p : Params} {h : Hardware} (hw : h.Wf p) {t : Token} {val : ValueField} {v : t.Value}
    (hv : decodeValue p.frameWidth t.valueType val = some v) : (h.store t (storedValue p h t v)).Wf p := by
  obtain ⟨hcpu, hppu, hsprite, hscreen, hframe, hlatch⟩ := hw
  cases t with
  | cpuReg r => cases r <;> exact ⟨hcpu, hppu, hsprite, hscreen, hframe, hlatch⟩
  | cpuMem a => exact ⟨Memory.wf_writeByte _ hcpu a.isLt, hppu, hsprite, hscreen, hframe, hlatch⟩
  | ppuMem a => exact ⟨hcpu, Memory.wf_writeByte _ hppu a.isLt, hsprite, hscreen, hframe, hlatch⟩
  | spriteMem i => exact ⟨hcpu, hppu, Memory.wf_writeByte _ hsprite i.isLt, hscreen, hframe, hlatch⟩
  | screen x y => exact ⟨hcpu, hppu, hsprite, ScreenBuffer.wf_writePixel _ hscreen x.isLt y.isLt, hframe, hlatch⟩
  | frame => exact ⟨hcpu, hppu, hsprite, hscreen, decodeValue_frame_lt hv, hlatch⟩
  | intLatch => exact ⟨hcpu, hppu, hsprite, hscreen, hframe, decodeValue_latch_wf hv⟩
  | _ => exact ⟨hcpu, hppu, hsprite, hscreen, hframe, hlatch⟩

theorem tickFrame_lt {W s c f : Nat} (hf : f < 2 ^ W) : tickFrame W s c f < 2 ^ W := by
  unfold tickFrame
  split
  · exact Nat.mod_lt _ (Nat.two_pow_pos W)
  · exact hf

theorem Hardware.Wf.tick {p : Params} {h : Hardware} (hp : p.wf) (hw : h.Wf p) : (tick p h).Wf p where
  cpuMem := hw.cpuMem
  ppuMem := hw.ppuMem
  spriteMem := hw.spriteMem
  screen := hw.screen
  frame := tick_frame_toNat hp h ▸ tickFrame_lt hw.frame
  intLatch := hw.intLatch

/-- An action writes a pixel only at a Visible position, whose coordinate lies on the screen (spec R171). -/
theorem ActionEffect.wf {p : Params} {h h' : Hardware} (e : ActionEffect h h') (hw : h.Wf p) : h'.Wf p := by
  cases e with
  | nothing off enter exit => exact hw
  | pixel at' col =>
    obtain ⟨hs, hc, hc'⟩ := classify_visible.mp at'
    exact { hw with screen := ScreenBuffer.wf_writePixel col hw.screen (by omega) (by omega) }
  | raised at' =>
    refine { hw with intLatch := ?_ }
    rw [raiseVblank_intLatch]
    split
    · rfl
    · exact hw.intLatch
  | cleared at' => exact { hw with }

theorem Hardware.Wf.stepBody {p : Params} {h h' : Hardware} (hp : p.wf) (hw : h.Wf p)
    (hb : stepBody p h = .ok h') : h'.Wf p := (stepBody_ok hb).wf (hw.tick hp)

theorem Hardware.Wf.stepBodies {p : Params} {h : Hardware} (hp : p.wf) (hw : h.Wf p) (n : Nat) :
    (stepBodies p n h).1.Wf p :=
  stepBodies_keeps (P := Hardware.Wf p) (fun _ _ hw hb => hw.stepBody hp hb) n h hw

/-! ### The fault records (spec R200, R201) -/

theorem PipelineFault.record_wf {c : FaultCause} (hc : PipelineFault c) (pos : Position) :
    (c.recordAt pos).wf = true := by
  obtain ⟨n, hn, rfl⟩ | ⟨pb, pi, hpb, hpi, rfl⟩ := hc
  · simpa [FaultCause.recordAt, FaultRecord.wf] using hn
  · simpa [FaultCause.recordAt, FaultRecord.wf] using ⟨hpb, hpi⟩

theorem stepBody_record_wf {p : Params} {h : Hardware} {rec : FaultRecord} (hb : stepBody p h = .error rec) :
    rec.wf = true := by
  obtain ⟨c, hc, rfl⟩ := stepBody_error hb
  exact hc.record_wf _

/-! ### The invariant -/

theorem State.Inv.complete {s : State} {h : Hardware} (hi : s.Inv) (hw : h.Wf s.params) : (complete s h).Inv :=
  ⟨hi.params, hw, hi.record⟩

theorem State.Inv.takeFault {s : State} {h : Hardware} {rec : FaultRecord} (hi : s.Inv) (hw : h.Wf s.params)
    (hrec : rec.wf = true) : (takeFault s h rec).Inv :=
  ⟨hi.params, hw, fun _ hr => by cases hr; exact hrec⟩

theorem State.Inv.set_commands {s : State} (hi : s.Inv) (ws : List CommandWord) :
    State.Inv { s with commands := ws } := ⟨hi.params, hi.hw, hi.record⟩

theorem execLoad_inv {s t : State} {ag : Agent} {r : TokenRef} (hi : s.Inv) (h : execLoad ag r s = .next t) :
    t.Inv := by
  obtain ⟨-, ⟨tok, -, rfl⟩ | ⟨w, -, rfl⟩⟩ := execLoad_next h
  · exact ⟨hi.params, hi.hw, hi.record⟩
  · exact hi.takeFault hi.hw rfl

theorem execStore_inv {s t : State} {ag : Agent} {r : TokenRef} {val : ValueField} (hi : s.Inv)
    (h : execStore ag r val s = .next t) : t.Inv := by
  obtain ⟨-, ⟨tok, v, -, hv, -, rfl⟩ | ⟨c, hc, rfl⟩⟩ := execStore_next h
  · exact hi.complete (hi.hw.store hv)
  · refine hi.takeFault hi.hw ?_
    obtain rfl | rfl | rfl := hc <;> rfl

theorem execStep_inv {s t : State} {ag : Agent} (hi : s.Inv) (h : execStep ag s = .next t) : t.Inv := by
  obtain ⟨-, ⟨h', hb, rfl⟩ | ⟨rec, hb, rfl⟩⟩ := execStep_next h
  · exact hi.complete (hi.hw.stepBody hi.params hb)
  · exact hi.takeFault hi.hw (stepBody_record_wf hb)

theorem execStepFrame_inv {s t : State} {ag : Agent} (hi : s.Inv) (h : execStepFrame ag s = .next t) : t.Inv := by
  have hw := hi.hw.stepBodies hi.params frameSteps
  obtain ⟨-, ⟨h', hb, rfl⟩ | ⟨h', rec, hb, rfl⟩⟩ := execStepFrame_next h
  · exact hi.complete (by rwa [hb] at hw)
  · obtain ⟨k, -, -, hfault⟩ := stepBodies_error _ _ hb
    exact hi.takeFault (by rwa [hb] at hw) (stepBody_record_wf hfault)

theorem exec_command_inv {s t : State} {w : CommandWord} {i : Instr} (hi : s.Inv) (hw : decodeCommand w = .ok i)
    (h : exec i s = .next t) : t.Inv := by
  obtain ⟨ag, r, rfl⟩ | ⟨ag, r, v, rfl⟩ | ⟨ag, rfl⟩ | ⟨ag, rfl⟩ := decodeCommand_ok hw
  · exact execLoad_inv (ag := ag) hi h
  · exact execStore_inv (ag := ag) hi h
  · exact execStep_inv (ag := ag) hi h
  · exact execStepFrame_inv (ag := ag) hi h

/-- Settles O52, by the four commands and the rejected word. -/
theorem stepsKeepTheInvariant : Obligations.StepsKeepTheInvariant := by
  intro s t hi h
  obtain ⟨-, ⟨-, rfl⟩ | ⟨w, rest, -, ⟨i, hw, hexec⟩ | ⟨-, rfl⟩⟩⟩ := step_next h
  · exact hi
  · exact exec_command_inv (hi.set_commands rest) hw hexec
  · exact (hi.set_commands rest).takeFault hi.hw rfl

theorem sessionState_inv {p : Params} (hp : p.wf) (screenInit : List (Nat × Color)) (img : InitImage) :
    (sessionState p screenInit img).Inv where
  params := hp
  hw :=
    { cpuMem := Memory.wf_memoryOf _ _
      ppuMem := Memory.wf_memoryOf _ _
      spriteMem := Memory.wf_memoryOf _ _
      screen := ScreenBuffer.wf_screenOf _
      frame := Nat.two_pow_pos p.frameWidth
      intLatch := rfl }
  record := fun _ h => by cases h

/-- Settles O51: the memories of a session are built canonical. -/
theorem invariantAtCreation : Obligations.InvariantAtCreation :=
  fun _ screenInit img hp => sessionState_inv hp screenInit img

/-- Settles O49: the two records are the same field by field. -/
theorem resetIsABlankSession : Obligations.ResetIsABlankSession := ⟨rfl, rfl, rfl, rfl, rfl, rfl⟩

/-- Settles O50: reset is the session of the blank image. -/
theorem invariantAtReset : Obligations.InvariantAtReset :=
  show State.reset.Inv from resetIsABlankSession.1 ▸ sessionState_inv (by decide) [] InitImage.blank

/-! ### Session creation (spec R240) -/

section
variable {α : Type} [DecidableEq α]

/-- Write the listed cells whose address lies below `size`, in order: what `memoryOf` and `screenOf` fold. -/
def writeCells (d : α) (size : Nat) (m cells : List (Nat × α)) : List (Nat × α) :=
  cells.foldl (fun m c => if c.1 < size then writeCell d m c.1 c.2 else m) m

theorem memoryOf_eq_writeCells (size : Nat) (cells : List Host.Cell) :
    memoryOf size cells = writeCells unlistedByte size [] cells := rfl

theorem screenOf_eq_writeCells (cells : List (Nat × Color)) :
    screenOf cells = writeCells unlistedColor 61440 [] cells := rfl

theorem writeCells_cons (d : α) (size : Nat) (m : List (Nat × α)) (b : Nat) (w : α) (cells : List (Nat × α)) :
    writeCells d size m ((b, w) :: cells) =
      writeCells d size (if b < size then writeCell d m b w else m) cells := rfl

theorem readCell_writeCells_unlisted {d : α} {size a : Nat} {cells : List (Nat × α)} (hno : ∀ v, (a, v) ∉ cells)
    (m : List (Nat × α)) : readCell d (writeCells d size m cells) a = readCell d m a := by
  induction cells generalizing m with
  | nil => rfl
  | cons c cells ih =>
    obtain ⟨b, w⟩ := c
    have hab : a ≠ b := by rintro rfl; exact hno w List.mem_cons_self
    rw [writeCells_cons, ih fun v hv => hno v (List.mem_cons_of_mem _ hv)]
    split
    · exact readCell_writeCell_other _ _ hab
    · rfl

/-- A cell listed with one value holds it: the last entry that names it writes it. -/
theorem readCell_writeCells_listed {d : α} {size a : Nat} {v : α} {cells : List (Nat × α)} (ha : a < size)
    (hmem : (a, v) ∈ cells) (hall : ∀ v', (a, v') ∈ cells → v' = v) {m : List (Nat × α)}
    (hm : cellsWf d size 0 m = true) : readCell d (writeCells d size m cells) a = v := by
  induction cells generalizing m with
  | nil => cases hmem
  | cons c cells ih =>
    obtain ⟨b, w⟩ := c
    rw [writeCells_cons]
    by_cases hlater : (a, v) ∈ cells
    · refine ih hlater (fun v' hv' => hall v' (List.mem_cons_of_mem _ hv')) ?_
      split
      · exact cellsWf_writeCell w hm (Nat.zero_le _) ‹_›
      · exact hm
    · obtain ⟨rfl, rfl⟩ := Prod.mk.inj ((List.mem_cons.mp hmem).resolve_right hlater)
      have hlast : ∀ v', (a, v') ∉ cells := fun v' hv' =>
        hlater (hall v' (List.mem_cons_of_mem _ hv') ▸ hv')
      rw [readCell_writeCells_unlisted hlast, if_pos ha, readCell_writeCell_same _ _ hm]

end

theorem readByte_memoryOf_listed {size a : Nat} {v : Byte} {cells : List Host.Cell} (hmem : (a, v) ∈ cells)
    (ha : a < size) (hall : ∀ v', (a, v') ∈ cells → v' = v) : readByte (memoryOf size cells) a = v := by
  rw [readByte, memoryOf_eq_writeCells, readCell_writeCells_listed ha hmem hall rfl]

theorem readPixel_screenOf_listed {x y : Nat} {v : Color} {cells : List (Nat × Color)} (hx : x < 256) (hy : y < 240)
    (hmem : (256 * y + x, v) ∈ cells) (hall : ∀ v', (256 * y + x, v') ∈ cells → v' = v) :
    readPixel (screenOf cells) x y = v := by
  rw [readPixel, screenOf_eq_writeCells, readCell_writeCells_listed (by omega) hmem hall rfl]

theorem readByte_memoryOf_unlisted {size a : Nat} {cells : List Host.Cell} (hno : ∀ v, (a, v) ∉ cells) :
    readByte (memoryOf size cells) a = unlistedByte := by
  rw [readByte, memoryOf_eq_writeCells, readCell_writeCells_unlisted hno, readCell]

theorem readPixel_screenOf_unlisted {x y : Nat} {cells : List (Nat × Color)}
    (hno : ∀ v, (256 * y + x, v) ∉ cells) : readPixel (screenOf cells) x y = unlistedColor := by
  rw [readPixel, screenOf_eq_writeCells, readCell_writeCells_unlisted hno, readCell]

/-- Settles O48: the registers are those of the record, and the memories are folds over the listed cells. -/
theorem sessionCreation : Obligations.SessionCreation := by
  intro p screenInit
  refine ⟨fun _ => rfl, ?_⟩
  rintro img s rfl
  exact ⟨rfl, rfl, rfl, rfl, rfl, rfl, rfl, rfl, rfl, rfl, rfl, rfl, rfl, rfl, rfl, rfl, rfl, rfl, rfl,
    fun _ _ => readByte_memoryOf_listed, fun _ _ => readByte_memoryOf_listed, fun _ _ => readByte_memoryOf_listed,
    fun _ _ _ => readPixel_screenOf_listed, fun _ => readByte_memoryOf_unlisted, fun _ => readByte_memoryOf_unlisted,
    fun _ => readByte_memoryOf_unlisted, fun _ _ => readPixel_screenOf_unlisted⟩

end Sys2Proof.Machine

namespace Sys2Proof.Machine

open Sys2Proof.Slice0

/-! ### A pending NMI (spec R207) -/

/-- The engine leaves a pending NMI: it writes the latch only to make it NMI. -/
theorem NmiEffect.pending {entered : Prop} {h h' : Hardware} (e : NmiEffect entered h h')
    (hp : h.intLatch = .nmi) : h'.intLatch = .nmi := by
  by_cases hn : entered ∧ h.nmiEnable = true
  · exact e.latched hn.1 hn.2
  · exact (e.kept hn).trans hp

theorem execStep_pending {s t : State} {ag : Agent} (h : execStep ag s = .next t) (hp : s.hw.intLatch = .nmi) :
    t.hw.intLatch = .nmi := by
  obtain ⟨-, ⟨h', hb, rfl⟩ | ⟨rec, -, rfl⟩⟩ := execStep_next h
  · exact (stepBody_nmiEffect hb).pending hp
  · exact hp

/-- A STORE that ends a pending NMI is the CPU engine's to the latch: check 7 forbids the other agents' (spec R113). -/
theorem execStore_endsNmi {s t : State} {ag : Agent} {r : TokenRef} {val : ValueField}
    (h : execStore ag r val s = .next t) (hp : s.hw.intLatch = .nmi) (hend : t.hw.intLatch ≠ .nmi) :
    ag = .cpu ∧ r = .token .intLatch := by
  obtain hkept | ⟨hr, hallowed⟩ := execStore_intLatch h
  · exact absurd (hkept.trans hp) hend
  · refine ⟨?_, hr⟩
    by_contra hag
    cases hallowed.symm.trans (latchForbids_iff.mpr (.inr ⟨hp, hag⟩))

/-- Settles O39: of the four commands and a rejected word, only a STORE can end a pending NMI. -/
theorem onlyTheCpuEndsAPendingNmi : Obligations.OnlyTheCpuEndsAPendingNmi := by
  intro s t h hp hend
  obtain ⟨-, ⟨-, rfl⟩ | ⟨w, rest, hc, ⟨i, hw, hexec⟩ | ⟨-, rfl⟩⟩⟩ := step_next h
  · exact absurd hp hend
  · obtain ⟨ag, r, rfl⟩ | ⟨ag, r, v, rfl⟩ | ⟨ag, rfl⟩ | ⟨ag, rfl⟩ := decodeCommand_ok hw
    · exact absurd (execLoad_hw (ag := ag) hexec ▸ hp) hend
    · obtain ⟨rfl, rfl⟩ := execStore_endsNmi (ag := ag) hexec hp hend
      exact ⟨w, rest, v, hc, hw⟩
    · exact absurd (execStep_pending (ag := ag) hexec hp) hend
    · exact absurd ((execStepFrame_nmiEffect (ag := ag) hexec).pending hp) hend
  · exact absurd hp hend

end Sys2Proof.Machine

namespace Sys2Proof.Machine

open Sys2Proof.Slice0

/-! ### The decoder's fields as numbers (spec R80, R85) -/

theorem opField_toNat (w : CommandWord) : (opField w).toNat = fieldOp w := by
  rw [opField, BitVec.extractLsb'_toNat, Nat.shiftRight_eq_div_pow, fieldOp]
  omega

theorem agField_toNat (w : CommandWord) : (agField w).toNat = fieldAgent w := by
  rw [agField, BitVec.extractLsb'_toNat, Nat.shiftRight_eq_div_pow, fieldAgent]

theorem rsvField_toNat (w : CommandWord) : (rsvField w).toNat = fieldRsv w := by
  rw [rsvField, BitVec.extractLsb'_toNat, Nat.shiftRight_eq_div_pow, fieldRsv]

theorem tokField_toNat (w : CommandWord) : (tokField w).toNat = fieldTok w := by
  rw [tokField, BitVec.extractLsb'_toNat, Nat.shiftRight_eq_div_pow, fieldTok]

theorem valField_toNat (w : CommandWord) : (valField w).toNat = fieldVal w := by
  rw [valField, BitVec.extractLsb'_toNat, Nat.shiftRight_zero, fieldVal]

theorem kindField_toNat (w : CommandWord) : (kindField (tokField w)).toNat = fieldKind w := by
  rw [kindField, BitVec.extractLsb'_toNat, Nat.shiftRight_eq_div_pow, tokField_toNat, fieldTok, fieldKind]
  omega

theorem tzField_toNat (w : CommandWord) : (tzField (tokField w)).toNat = fieldTz w := by
  rw [tzField, BitVec.extractLsb'_toNat, Nat.shiftRight_eq_div_pow, tokField_toNat, fieldTok, fieldTz]
  omega

theorem indexField_toNat (w : CommandWord) : (indexField (tokField w)).toNat = fieldIndex w := by
  rw [indexField, BitVec.extractLsb'_toNat, Nat.shiftRight_zero, tokField_toNat, fieldTok, fieldIndex]
  omega

/-! ### Checks 1 to 4 (spec R91) -/

/-- What a word that passes checks 1 to 4 decodes to. -/
theorem decodeCommand_of_passes {w : CommandWord} (hw : PassesCommandChecks w) :
    (fieldOp w = 1 ∧ decodeCommand w = .ok (.load (decodeAgent (agField w)) (decodeToken (tokField w)))) ∨
      (fieldOp w = 2 ∧
        decodeCommand w = .ok (.store (decodeAgent (agField w)) (decodeToken (tokField w)) (valField w))) ∨
      (fieldOp w = 3 ∧ decodeCommand w = .ok (.step (decodeAgent (agField w)))) ∨
      (fieldOp w = 4 ∧ decodeCommand w = .ok (.stepFrame (decodeAgent (agField w)))) := by
  obtain ⟨hop, hrsv, hstep, hload⟩ := hw
  simp only [decodeCommand_eq_ok, ← BitVec.toNat_inj, opField_toNat, rsvField_toNat, tokField_toNat, valField_toNat,
    hrsv]
  obtain h | h | h | h : fieldOp w = 1 ∨ fieldOp w = 2 ∨ fieldOp w = 3 ∨ fieldOp w = 4 := by omega
  · simp [h, hload h]
  · simp [h]
  · simp [h, hstep (by omega)]
  · simp [h, hstep (by omega)]

theorem passes_of_decodeCommand {w : CommandWord} {i : Instr} (h : decodeCommand w = .ok i) :
    PassesCommandChecks w := by
  simp only [decodeCommand_eq_ok, ← BitVec.toNat_inj, opField_toNat, rsvField_toNat, tokField_toNat, valField_toNat,
    BitVec.toNat_ofNat] at h
  unfold PassesCommandChecks
  omega

theorem wordInfo_of_decodeCommand {w : CommandWord} {i : Instr} (h : decodeCommand w = .ok i) :
    wordInfo i = .word w := by rw [wordInfo, (encode_of_decodeCommand h).1]

theorem step_of_decodeCommand {s : State} {w : CommandWord} {rest : List CommandWord} {i : Instr}
    (hs : s.status = .running) (hc : s.commands = w :: rest) (hw : decodeCommand w = .ok i) :
    step s = exec i { s with commands := rest } := by
  rw [step_of_commands hs hc, hw]

/-- Settles O8: the decoded command is all that the step runs. -/
theorem stepRunsTheDecodedCommand : Obligations.StepRunsTheDecodedCommand :=
  fun _ _ _ _ hs hc hw => step_of_decodeCommand hs hc hw

/-- Settles O4: a word that fails one of checks 1 to 4 does not decode. -/
theorem illFormedCommandsAbort : Obligations.IllFormedCommandsAbort := by
  intro s w rest hs hc hfail
  rw [step_of_commands hs hc]
  cases hd : decodeCommand w with
  | ok i => exact absurd (passes_of_decodeCommand hd) hfail
  | error e => rfl

/-! ### Check 5: the token word (spec R86, R87) -/

theorem index_spriteMem (i : Byte) : (Token.spriteMem i).index.toNat = i.toNat := by
  rw [Token.index, BitVec.toNat_append]
  simp

theorem index_screen (x : Byte) (y : Fin 240) : (Token.screen x y).index.toNat = 256 * y.val + x.toNat := by
  rw [Token.index, BitVec.toNat_append, ← Nat.shiftLeft_add_eq_or_of_lt x.isLt, BitVec.toNat_ofNat,
    Nat.mod_eq_of_lt (by omega), Nat.shiftLeft_eq]
  omega

/-- The kinds and indexes of the tokens, as numbers. -/
theorem exists_token_iff {k n : Nat} (hn : n < 65536) :
    (∃ t : Token, t.kind.toNat = k ∧ t.index.toNat = n) ↔
      ((k = 0x01 ∧ n ≤ 5) ∨ k = 0x02 ∨ (0x10 ≤ k ∧ k ≤ 0x18 ∧ n = 0) ∨ k = 0x19 ∨ (k = 0x1A ∧ n ≤ 0xFF) ∨
        (k = 0x1B ∧ n ≤ 0xEFFF) ∨ (k = 0x20 ∧ n = 0)) := by
  constructor
  · rintro ⟨t, rfl, rfl⟩
    cases t with
    | cpuReg r => cases r <;> decide
    | spriteMem i =>
      rw [index_spriteMem]
      exact .inr (.inr (.inr (.inr (.inl ⟨rfl, by omega⟩))))
    | screen x y =>
      rw [index_screen]
      exact .inr (.inr (.inr (.inr (.inr (.inl ⟨rfl, by omega⟩)))))
    | _ => simp [Token.kind, Token.index]
  · rintro (⟨rfl, h⟩ | rfl | ⟨h1, h2, rfl⟩ | rfl | ⟨rfl, h⟩ | ⟨rfl, h⟩ | ⟨rfl, rfl⟩)
    · interval_cases n
      exacts [⟨.cpuReg .a, rfl, rfl⟩, ⟨.cpuReg .x, rfl, rfl⟩, ⟨.cpuReg .y, rfl, rfl⟩, ⟨.cpuReg .p, rfl, rfl⟩,
        ⟨.cpuReg .sp, rfl, rfl⟩, ⟨.cpuReg .pc, rfl, rfl⟩]
    · exact ⟨.cpuMem (BitVec.ofNat 16 n), rfl, Nat.mod_eq_of_lt hn⟩
    · interval_cases k
      exacts [⟨.cycle, rfl, rfl⟩, ⟨.scanline, rfl, rfl⟩, ⟨.frame, rfl, rfl⟩, ⟨.scrollX, rfl, rfl⟩,
        ⟨.scrollY, rfl, rfl⟩, ⟨.nametableBase, rfl, rfl⟩, ⟨.bgPatternBase, rfl, rfl⟩, ⟨.vblank, rfl, rfl⟩,
        ⟨.nmiEnable, rfl, rfl⟩]
    · exact ⟨.ppuMem (BitVec.ofNat 16 n), rfl, Nat.mod_eq_of_lt hn⟩
    · exact ⟨.spriteMem (BitVec.ofNat 8 n), rfl, by rw [index_spriteMem, BitVec.toNat_ofNat]; omega⟩
    · exact ⟨.screen (BitVec.ofNat 8 n) ⟨n / 256, by omega⟩, rfl, by
        rw [index_screen, BitVec.toNat_ofNat]; exact Nat.div_add_mod n 256⟩
    · exact ⟨.intLatch, rfl, rfl⟩

theorem kind_of_tokField {w : CommandWord} {t : Token} (h : tokField w = t.word) : t.kind.toNat = fieldKind w := by
  rw [← kindField_toNat, h, kindField_word]

theorem index_of_tokField {w : CommandWord} {t : Token} (h : tokField w = t.word) :
    t.index.toNat = fieldIndex w := by
  rw [← indexField_toNat, h, indexField_word]

/-- Check 5 passes exactly when the token word is a token's. -/
theorem namesToken_iff {w : CommandWord} : NamesToken w ↔ ∃ t : Token, tokField w = t.word := by
  refine (and_congr_right' (exists_token_iff (Nat.mod_lt _ (by decide))).symm).trans ⟨?_, ?_⟩
  · rintro ⟨htz, t, hk, hn⟩
    refine ⟨t, ?_⟩
    rw [Token.word, BitVec.eq_of_toNat_eq (hk.trans (kindField_toNat w).symm),
      BitVec.eq_of_toNat_eq (hn.trans (indexField_toNat w).symm),
      ← BitVec.eq_of_toNat_eq (y := 0#8) ((tzField_toNat w).trans htz), tokenWord_fields]
  · rintro ⟨t, ht⟩
    refine ⟨?_, t, kind_of_tokField ht, index_of_tokField ht⟩
    rw [← tzField_toNat, ht, tzField_word]
    rfl

theorem decodeToken_of_not_namesToken {w : CommandWord} (h : ¬ NamesToken w) :
    decodeToken (tokField w) = .invalid (tokField w) := by
  have hnone : tokenOfWord (tokField w) = none :=
    Option.eq_none_iff_forall_ne_some.mpr fun t ht => h (namesToken_iff.mpr ⟨t, tokenOfWord_eq_some.mp ht⟩)
  rw [decodeToken, hnone]

theorem exec_load_of_invalid {s : State} {w : CommandWord} {ag : Agent} {v : TokenWord} (hs : s.status = .running)
    (hw : decodeCommand w = .ok (.load ag (.invalid v))) :
    exec (.load ag (.invalid v)) s = abortedBy s .invalidAddress w := by
  rw [exec, execLoad, ifRunning_running _ hs, wordInfo_of_decodeCommand hw]
  rfl

theorem exec_store_of_invalid {s : State} {w : CommandWord} {ag : Agent} {v : TokenWord} {val : ValueField}
    (hs : s.status = .running) (hw : decodeCommand w = .ok (.store ag (.invalid v) val)) :
    exec (.store ag (.invalid v) val) s = abortedBy s .invalidAddress w := by
  rw [exec, execStore, ifRunning_running _ hs, wordInfo_of_decodeCommand hw]
  rfl

/-- Settles O5: such a word decodes to a LOAD or STORE of an invalid operand, whose meaning raises the fault first. -/
theorem invalidTokensAbort : Obligations.InvalidTokensAbort := by
  intro s w rest hs hc hpass hop hinvalid
  have htok := decodeToken_of_not_namesToken hinvalid
  obtain ⟨-, hw⟩ | ⟨-, hw⟩ | ⟨h3, -⟩ | ⟨h4, -⟩ := decodeCommand_of_passes hpass
  · rw [htok] at hw
    exact (step_of_decodeCommand hs hc hw).trans (exec_load_of_invalid (by exact hs) hw)
  · rw [htok] at hw
    exact (step_of_decodeCommand hs hc hw).trans (exec_store_of_invalid (by exact hs) hw)
  · omega
  · omega

/-! ### Check 6: the value (spec R88) -/

/-- A value is of its token's type exactly when it lies below the bound of the word's kind. -/
theorem legal_iff_lt_valueBound {W : Nat} {w : CommandWord} {t : Token} (h : tokField w = t.word) (v : ValueField) :
    t.valueType.legal W v = true ↔ v.toNat < valueBound W w := by
  unfold valueBound
  rw [← kind_of_tokField h, ← index_of_tokField h]
  cases t with
  | cpuReg r => cases r <;> simp [Token.valueType, ValueType.legal, Token.kind, Token.index, encodeCpuReg]
  | screen x y => simpa [Token.valueType, ValueType.legal, Token.kind] using v.isLt
  | _ => simp [Token.valueType, ValueType.legal, Token.kind]

theorem decodeValue_eq_none {W : Nat} {ty : ValueType} {v : ValueField} (h : ¬ ty.legal W v = true) :
    decodeValue W ty v = none := by
  rwa [← decodeValue_isSome, Bool.not_eq_true, Option.isSome_eq_false_iff, Option.isNone_iff_eq_none] at h

theorem exec_store_of_illTyped {s : State} {w : CommandWord} {ag : Agent} {t : Token} {val : ValueField}
    (hs : s.status = .running) (hw : decodeCommand w = .ok (.store ag (.token t) val))
    (hval : ¬ t.valueType.legal s.params.frameWidth val = true) :
    exec (.store ag (.token t) val) s = abortedBy s .typeMismatch w := by
  rw [exec, execStore, ifRunning_running _ hs, wordInfo_of_decodeCommand hw]
  simp only [decodeValue_eq_none hval]
  rfl

/-- Settles O6: the value decodes for no value of the token's type, and check 7 comes later. -/
theorem illTypedStoresAbort : Obligations.IllTypedStoresAbort := by
  intro s w rest hs hc hpass hop hnames hbound
  obtain ⟨t, ht⟩ := namesToken_iff.mp hnames
  have hillegal : ¬ t.valueType.legal s.params.frameWidth (valField w) = true := by
    rw [legal_iff_lt_valueBound ht, valField_toNat]
    omega
  obtain ⟨h1, -⟩ | ⟨-, hw⟩ | ⟨h3, -⟩ | ⟨h4, -⟩ := decodeCommand_of_passes hpass
  · omega
  · rw [ht, decodeToken_word] at hw
    exact (step_of_decodeCommand hs hc hw).trans (exec_store_of_illTyped (by exact hs) hw hillegal)
  · omega
  · omega

theorem encodeAgent_toNat (w : CommandWord) : (encodeAgent (decodeAgent (agField w))).toNat = fieldAgent w := by
  rw [encodeAgent_decodeAgent, agField_toNat]

/-- Settles O7: the four opcodes in turn, the token and the value of a LOAD or STORE from checks 5 and 6. -/
theorem wellFormedCommandsArePerformed : Obligations.WellFormedCommandsArePerformed := by
  intro s w rest hs hc hpass hnames hbound
  obtain ⟨hop, hw⟩ | ⟨hop, hw⟩ | ⟨hop, hw⟩ | ⟨hop, hw⟩ := decodeCommand_of_passes hpass <;>
    refine ⟨_, hw, ?_, ?_, step_of_decodeCommand hs hc hw⟩
  · obtain ⟨t, ht⟩ := namesToken_iff.mp (hnames (by omega))
    rw [ht, decodeToken_word]
    rfl
  · exact ⟨hop, encodeAgent_toNat w⟩
  · obtain ⟨t, ht⟩ := namesToken_iff.mp (hnames (by omega))
    rw [ht, decodeToken_word]
    exact (legal_iff_lt_valueBound ht _).mpr (valField_toNat w ▸ hbound hop)
  · exact ⟨hop, encodeAgent_toNat w, valField_toNat w⟩
  · rfl
  · exact ⟨hop, encodeAgent_toNat w⟩
  · rfl
  · exact ⟨hop, encodeAgent_toNat w⟩

/-! ### A step, whatever the command (spec R7, R70, R202, R203, R218) -/

/-- Settles O9: there is no next command. -/
theorem idleSessionPersists : Obligations.IdleSessionPersists := by
  intro s hs hc
  rw [step, ifRunning_running _ hs, nextCommand, hc]

theorem exec_aborted {s : State} {rec : FaultRecord} (i : Instr) (hs : s.status = .aborted rec) :
    exec i s = .fault (.sessionAborted rec) := by
  cases i <;> exact ifRunning_aborted _ hs

/-- Settles O10: `step` and every meaning look at the status first. -/
theorem abortedSessionsHaveNoStep : Obligations.AbortedSessionsHaveNoStep :=
  fun _ _ hs => ⟨ifRunning_aborted _ hs, fun i => exec_aborted i hs⟩

/-- A phase action that answers a next state completed, or was undone by its fault (spec R202). -/
theorem runAction_next {s t : State} {r : Except FaultCause Hardware} (h : runAction s r = .next t) :
    s.status = .running ∧
      ((∃ h', r = .ok h' ∧ t = complete s h') ∨
        ∃ c, r = .error c ∧ t = takeFault s s.hw (c.recordAt s.hw.pos)) := by
  obtain ⟨hs, hk⟩ := running_of_ifRunning_next h
  refine ⟨hs, ?_⟩
  cases r with
  | ok h' => cases hk; exact .inl ⟨h', rfl, rfl⟩
  | error c => exact .inr ⟨c, rfl, raiseHere_next hk⟩

/-- The meaning of a phase's action that answers a next state ran that action (log 13). -/
theorem exec_phase_next {s t : State} {ph : Phase} (h : exec ph.instr s = .next t) :
    runAction s (phaseAction s.params ph s.hw) = .next t := by
  cases ph with
  | visible =>
    obtain ⟨-, hk⟩ := running_of_ifRunning_next h
    split at hk
    · exact hk
    · cases hk
  | _ => exact h

/-- Every instruction is one of the four commands or a phase's action (spec R82, R93). -/
theorem instr_cases (i : Instr) :
    (∃ ag r, i = .load ag r) ∨ (∃ ag r v, i = .store ag r v) ∨ (∃ ag, i = .step ag) ∨ (∃ ag, i = .stepFrame ag) ∨
      ∃ ph : Phase, i = ph.instr := by
  cases i with
  | load ag r => exact .inl ⟨ag, r, rfl⟩
  | store ag r v => exact .inr (.inl ⟨ag, r, v, rfl⟩)
  | step ag => exact .inr (.inr (.inl ⟨ag, rfl⟩))
  | stepFrame ag => exact .inr (.inr (.inr (.inl ⟨ag, rfl⟩)))
  | idleRender => exact .inr (.inr (.inr (.inr ⟨.idleRender, rfl⟩)))
  | visible => exact .inr (.inr (.inr (.inr ⟨.visible, rfl⟩)))
  | prefetch => exact .inr (.inr (.inr (.inr ⟨.prefetch, rfl⟩)))
  | postrender => exact .inr (.inr (.inr (.inr ⟨.postrender, rfl⟩)))
  | enterVblank => exact .inr (.inr (.inr (.inr ⟨.enterVblank, rfl⟩)))
  | vblankIdle => exact .inr (.inr (.inr (.inr ⟨.vblankIdle, rfl⟩)))
  | exitVblank => exact .inr (.inr (.inr (.inr ⟨.exitVblank, rfl⟩)))
  | unreachable => exact .inr (.inr (.inr (.inr ⟨.unreachable, rfl⟩)))

/-- No instruction changes the parameters or the pending commands. -/
theorem exec_params_commands {s t : State} {i : Instr} (h : exec i s = .next t) :
    t.params = s.params ∧ t.commands = s.commands := by
  obtain ⟨ag, r, rfl⟩ | ⟨ag, r, v, rfl⟩ | ⟨ag, rfl⟩ | ⟨ag, rfl⟩ | ⟨ph, rfl⟩ := instr_cases i
  · obtain ⟨-, ⟨tok, -, rfl⟩ | ⟨w, -, rfl⟩⟩ := execLoad_next (ag := ag) h <;> exact ⟨rfl, rfl⟩
  · obtain ⟨-, ⟨tok, v', -, -, -, rfl⟩ | ⟨c, -, rfl⟩⟩ := execStore_next (ag := ag) h <;> exact ⟨rfl, rfl⟩
  · obtain ⟨-, ⟨h', -, rfl⟩ | ⟨rec, -, rfl⟩⟩ := execStep_next (ag := ag) h <;> exact ⟨rfl, rfl⟩
  · obtain ⟨-, ⟨h', -, rfl⟩ | ⟨h', rec, -, rfl⟩⟩ := execStepFrame_next (ag := ag) h <;> exact ⟨rfl, rfl⟩
  · obtain ⟨-, ⟨h', -, rfl⟩ | ⟨c, -, rfl⟩⟩ := runAction_next (exec_phase_next h) <;> exact ⟨rfl, rfl⟩

/-- Settles O40: the command is taken from the list before its meaning, which leaves the list. -/
theorem stepsTakeOneCommand : Obligations.StepsTakeOneCommand := by
  intro s t h
  obtain ⟨-, ⟨hc, rfl⟩ | ⟨w, rest, hc, ⟨i, -, hexec⟩ | ⟨-, rfl⟩⟩⟩ := step_next h
  · exact ⟨rfl, by rw [hc]; rfl⟩
  · rw [hc]
    exact exec_params_commands hexec
  · exact ⟨rfl, by rw [hc]; rfl⟩

/-- What a session's abort by an instruction leaves: the Hardware State before it, for a STEP_FRAME the one after the
STEP bodies that completed (spec R202). -/
theorem exec_abort {s t : State} {i : Instr} {rec : FaultRecord} (h : exec i s = .next t)
    (ht : t.status = .aborted rec) :
    t.result = none ∧ ((∀ ag, i ≠ .stepFrame ag) → t.hw = s.hw) ∧
      (∀ ag, i = .stepFrame ag →
        ∃ n, n < frameSteps ∧ stepBodies s.params n s.hw = (t.hw, none) ∧ stepBody s.params t.hw = .error rec) := by
  have hrunning : s.status = .running → t.status ≠ s.status := fun hs he => by cases hs.symm.trans (he.symm.trans ht)
  obtain ⟨ag, r, rfl⟩ | ⟨ag, r, v, rfl⟩ | ⟨ag, rfl⟩ | ⟨ag, rfl⟩ | ⟨ph, rfl⟩ := instr_cases i
  · obtain ⟨hs, ⟨tok, -, rfl⟩ | ⟨w, -, rfl⟩⟩ := execLoad_next (ag := ag) h
    · exact absurd rfl (hrunning hs)
    · exact ⟨rfl, fun _ => rfl, fun _ he => by cases he⟩
  · obtain ⟨hs, ⟨tok, v', -, -, -, rfl⟩ | ⟨c, -, rfl⟩⟩ := execStore_next (ag := ag) h
    · exact absurd rfl (hrunning hs)
    · exact ⟨rfl, fun _ => rfl, fun _ he => by cases he⟩
  · obtain ⟨hs, ⟨h', -, rfl⟩ | ⟨rec', -, rfl⟩⟩ := execStep_next (ag := ag) h
    · exact absurd rfl (hrunning hs)
    · exact ⟨rfl, fun _ => rfl, fun _ he => by cases he⟩
  · obtain ⟨hs, ⟨h', -, rfl⟩ | ⟨h', rec', hb, rfl⟩⟩ := execStepFrame_next (ag := ag) h
    · exact absurd rfl (hrunning hs)
    · cases ht
      exact ⟨rfl, fun hne => absurd rfl (hne ag), fun _ _ => stepBodies_error _ _ hb⟩
  · obtain ⟨hs, ⟨h', -, rfl⟩ | ⟨c, -, rfl⟩⟩ := runAction_next (exec_phase_next h)
    · exact absurd rfl (hrunning hs)
    · exact ⟨rfl, fun _ => rfl, fun _ he => by cases ph <;> cases he⟩

/-- Settles O11: a decoded command aborts precisely, and a rejected word performs nothing. -/
theorem abortIsPrecise : Obligations.AbortIsPrecise := by
  intro s t rec hs h ht
  obtain ⟨hparams, hcommands⟩ := stepsTakeOneCommand s t h
  obtain ⟨-, ⟨-, rfl⟩ | ⟨w, rest, hc, ⟨i, hw, hexec⟩ | ⟨⟨e, hw⟩, rfl⟩⟩⟩ := step_next h
  · cases hs.symm.trans ht
  · obtain ⟨hresult, hother, hframe⟩ := exec_abort hexec ht
    refine ⟨hresult, hparams, w, rest, hc, by rw [hcommands, hc]; rfl, fun hne => ?_, fun ag hag => ?_⟩
    · exact hother fun ag hi => hne ag (hi ▸ hw)
    · cases hw.symm.trans hag
      exact hframe ag rfl
  · refine ⟨rfl, rfl, w, rest, hc, rfl, fun _ => rfl, fun ag hag => ?_⟩
    cases hw.symm.trans hag

end Sys2Proof.Machine

namespace Sys2Proof.Machine

open Sys2Proof.Slice0

/-! ### LOAD (spec R64, R88, R110) -/

theorem encodeValue_color_toNat (c : Color) :
    (encodeValue .color c).toNat = c.r.toNat * 65536 + c.g.toNat * 256 + c.b.toNat := by
  rw [encodeValue, BitVec.toNat_append, BitVec.toNat_append, ← Nat.shiftLeft_add_eq_or_of_lt c.b.isLt,
    ← Nat.shiftLeft_add_eq_or_of_lt c.g.isLt, Nat.shiftLeft_eq, Nat.shiftLeft_eq]
  omega

theorem encodeValue_bool_toNat (b : Bool) : (encodeValue .bool b).toNat = if b then 1 else 0 := by
  cases b <;> rfl

theorem encodeValue_latch_toNat (l : IntLatch) : (encodeValue .latch l).toNat = latchNumber l := by
  cases l with
  | other k => exact BitVec.toNat_setWidth_of_le (by omega)
  | _ => rfl

/-- The encoding of a cell's value is the cell's number. -/
theorem encodeValue_load_toNat (h : Hardware) (t : Token) :
    (encodeValue t.valueType (h.load t)).toNat = cellNumber h t := by
  cases t with
  | cpuReg r => cases r <;> exact BitVec.toNat_setWidth_of_le (by omega)
  | frame => rfl
  | vblank => exact encodeValue_bool_toNat _
  | nmiEnable => exact encodeValue_bool_toNat _
  | screen x y => exact encodeValue_color_toNat _
  | intLatch => exact encodeValue_latch_toNat _
  | _ => exact BitVec.toNat_setWidth_of_le (by omega)

/-- Settles O12: check 5 is all a LOAD has, and a token passes it. -/
theorem loadAnswersTheCell : Obligations.LoadAnswersTheCell :=
  fun s ag t hs => ⟨_, encodeValue_load_toNat s.hw t, execLoad_of_token ag t hs⟩

/-! ### The values a STORE carries (spec R88) -/

theorem decodeValue_u8 {W : Nat} {v : ValueField} (h : v.toNat < 2 ^ 8) :
    decodeValue W .u8 v = some (BitVec.ofNat 8 v.toNat) := by
  rw [BitVec.ofNat_toNat]
  exact if_pos h

theorem decodeValue_u16 {W : Nat} {v : ValueField} (h : v.toNat < 2 ^ 16) :
    decodeValue W .u16 v = some (BitVec.ofNat 16 v.toNat) := by
  rw [BitVec.ofNat_toNat]
  exact if_pos h

theorem decodeValue_frame {W : Nat} {v : ValueField} (h : v.toNat < 2 ^ W) :
    decodeValue W .frameCounter v = some v := if_pos h

theorem decodeValue_bool {W : Nat} {v : ValueField} (h : v.toNat < 2) :
    decodeValue W .bool v = some (decide (v.toNat = 1)) := by
  obtain rfl | rfl : v = 0#24 ∨ v = 1#24 := by bv_omega
  · rfl
  · rfl

theorem decodeValue_color (W : Nat) (v : ValueField) :
    decodeValue W .color v =
      some ⟨BitVec.ofNat 8 (v.toNat / 65536), BitVec.ofNat 8 (v.toNat / 256), BitVec.ofNat 8 v.toNat⟩ := by
  simp [decodeValue, BitVec.extractLsb', Nat.shiftRight_eq_div_pow]

theorem decodeValue_latch {W : Nat} {v : ValueField} (h : v.toNat < 2 ^ 8) :
    decodeValue W .latch v = some (latchOfCode (BitVec.ofNat 8 v.toNat)) := by
  rw [BitVec.ofNat_toNat]
  exact if_pos h

theorem eq_of_decodeValue_u8 {W : Nat} {v : ValueField} {b : Byte} (h : decodeValue W .u8 v = some b) :
    b = BitVec.ofNat 8 v.toNat := by
  rw [BitVec.ofNat_toNat]
  obtain ⟨-, h⟩ | ⟨-, h⟩ := ite_eq_iff.mp (show (if _ then _ else _) = _ from h)
  · cases h; rfl
  · cases h

/-! ### STOREs (spec R61, R68, R111) -/

theorem isMapped_iff {p : Params} {space : MapSpace} {a : Half} :
    isMapped p space a = true ↔ (space, a.toNat) ∈ p.cartMapped := List.contains_iff_mem

theorem storedByte_of_mapped {p : Params} {space : MapSpace} {a : Half} (h : (space, a.toNat) ∈ p.cartMapped)
    (old v : Byte) : storedByte p space a old v = Config.mapperStore space a old v :=
  if_pos (isMapped_iff.mpr h)

theorem storedByte_of_unmapped {p : Params} {space : MapSpace} {a : Half} (h : (space, a.toNat) ∉ p.cartMapped)
    (old v : Byte) : storedByte p space a old v = v := if_neg (mt isMapped_iff.mp h)

/-- Settles O15: each value decodes at its register's type and no protocol applies. -/
theorem storeWritesCpuRegisters : Obligations.StoreWritesCpuRegisters := by
  intro s ag v hs
  refine ⟨fun h => ⟨?_, ?_, ?_, ?_, ?_⟩, fun h => ?_⟩
  · exact execStore_of_allowed (t := .cpuReg .a) hs (decodeValue_u8 h) rfl
  · exact execStore_of_allowed (t := .cpuReg .x) hs (decodeValue_u8 h) rfl
  · exact execStore_of_allowed (t := .cpuReg .y) hs (decodeValue_u8 h) rfl
  · exact execStore_of_allowed (t := .cpuReg .p) hs (decodeValue_u8 h) rfl
  · exact execStore_of_allowed (t := .cpuReg .sp) hs (decodeValue_u8 h) rfl
  · exact execStore_of_allowed (t := .cpuReg .pc) hs (decodeValue_u16 h) rfl

/-- Settles O16: each value decodes at its register's type and no protocol applies. -/
theorem storeWritesPpuRegisters : Obligations.StoreWritesPpuRegisters := by
  intro s ag v hs
  refine ⟨fun h => ⟨?_, ?_⟩, fun h => ⟨?_, ?_, ?_, ?_⟩, fun h => ?_, fun h => ⟨?_, ?_⟩⟩
  · exact execStore_of_allowed (t := .scrollX) hs (decodeValue_u8 h) rfl
  · exact execStore_of_allowed (t := .scrollY) hs (decodeValue_u8 h) rfl
  · exact execStore_of_allowed (t := .cycle) hs (decodeValue_u16 h) rfl
  · exact execStore_of_allowed (t := .scanline) hs (decodeValue_u16 h) rfl
  · exact execStore_of_allowed (t := .nametableBase) hs (decodeValue_u16 h) rfl
  · exact execStore_of_allowed (t := .bgPatternBase) hs (decodeValue_u16 h) rfl
  · exact execStore_of_allowed (t := .frame) hs (decodeValue_frame h) rfl
  · exact execStore_of_allowed (t := .vblank) hs (decodeValue_bool h) rfl
  · exact execStore_of_allowed (t := .nmiEnable) hs (decodeValue_bool h) rfl

/-- Settles O17: each memory is written at the token's own address, with the mapper's value where it is mapped. -/
theorem storeWritesMemoryCells : Obligations.StoreWritesMemoryCells := by
  intro s ag v a i hs hi h
  obtain ⟨hcpu, hppu, hsprite, -, -, -⟩ := hi.hw
  refine ⟨⟨_, execStore_of_allowed (t := .cpuMem a) hs (decodeValue_u8 h) rfl, ?_, ?_, ?_⟩,
    ⟨_, execStore_of_allowed (t := .ppuMem a) hs (decodeValue_u8 h) rfl, ?_, ?_, ?_⟩,
    ⟨_, execStore_of_allowed (t := .spriteMem i) hs (decodeValue_u8 h) rfl, ?_, ?_⟩⟩
  · exact fun hm => (readByte_writeByte_same _ _ hcpu).trans (storedByte_of_unmapped hm _ _)
  · exact fun hm => (readByte_writeByte_same _ _ hcpu).trans (storedByte_of_mapped hm _ _)
  · exact fun b hb => readByte_writeByte_other _ _ hb
  · exact fun hm => (readByte_writeByte_same _ _ hppu).trans (storedByte_of_unmapped hm _ _)
  · exact fun hm => (readByte_writeByte_same _ _ hppu).trans (storedByte_of_mapped hm _ _)
  · exact fun b hb => readByte_writeByte_other _ _ hb
  · exact readByte_writeByte_same _ _ hsprite
  · exact fun b hb => readByte_writeByte_other _ _ hb

/-- Settles O18: every value decodes as a colour. -/
theorem storeWritesScreenCells : Obligations.StoreWritesScreenCells := by
  intro s ag v x y hs hi
  refine ⟨_, execStore_of_allowed (t := .screen x y) hs (decodeValue_color _ v) rfl, ?_, ?_⟩
  · exact readPixel_writePixel_same _ _ _ hi.hw.screen
  · exact fun x' y' hx' hne => readPixel_writePixel_other _ _ x.isLt hx' hne

/-- Settles O13: a LOAD's answer leaves the Hardware State it reads, and a STORE's write is read back at its own token
alone. -/
theorem accessesTouchOneCell : Obligations.AccessesTouchOneCell := by
  refine ⟨fun s t ag tok hs h => ?load, fun s t ag tok v hs hi h => ?store⟩
  case load =>
    cases (execLoad_of_token ag tok hs).symm.trans h
    exact ⟨⟨_, rfl, encodeValue_load_toNat s.hw tok⟩, rfl, rfl, rfl, rfl, execLoad_of_token ag tok hs⟩
  case store =>
    obtain ⟨hparams, hcommands⟩ := exec_params_commands h
    obtain ⟨-, ⟨tok', b, htok, hb, -, rfl⟩ | ⟨c, -, rfl⟩⟩ :=
      execStore_next (show execStore ag (.token tok) v s = .next t from h)
    · cases htok
      refine ⟨hparams, hcommands, fun other hne => load_store_other _ _ hne, ?_, ?_⟩
      · rintro a rfl - hm
        rw [← eq_of_decodeValue_u8 hb]
        exact (readByte_writeByte_same _ _ hi.hw.cpuMem).trans (storedByte_of_mapped hm _ _)
      · rintro a rfl - hm
        rw [← eq_of_decodeValue_u8 hb]
        exact (readByte_writeByte_same _ _ hi.hw.ppuMem).trans (storedByte_of_mapped hm _ _)
    · exact ⟨hparams, hcommands, fun _ _ => rfl, fun _ _ ht => (nomatch ht), fun _ _ ht => (nomatch ht)⟩

/-! ### The latch protocol and the agents (spec R83, R113) -/

theorem latchOfCode_of_ne_one {n : Nat} (hn : n < 2 ^ 8) (h1 : n ≠ 1) :
    latchOfCode (BitVec.ofNat 8 n) = if n = 0 then .none else .other (BitVec.ofNat 8 n) := by
  have h0 : BitVec.ofNat 8 n = 0#8 ↔ n = 0 := by bv_omega
  have h1' : BitVec.ofNat 8 n ≠ 1#8 := by bv_omega
  simp only [latchOfCode, h0, if_neg h1']

theorem execStore_of_forbidden {s : State} {ag : Agent} {t : Token} {val : ValueField} {v : t.Value}
    (hs : s.status = .running) (hv : decodeValue s.params.frameWidth t.valueType val = some v)
    (hp : protocolForbids ag s.hw t v = true) :
    execStore ag (.token t) val s = raiseHere s ⟨.latchProtocolViolation, wordInfo (.store ag (.token t) val)⟩ := by
  simp [execStore, hs, hv, hp]

/-- Settles O19: check 7 is the protocol's condition, and a code but 1 stores no request or the kind of its code. -/
theorem latchProtocolDecidesLatchStores : Obligations.LatchProtocolDecidesLatchStores := by
  intro s ag v hs h
  have hv := decodeValue_latch (W := s.params.frameWidth) h
  have hforbids : protocolForbids ag s.hw .intLatch (latchOfCode (BitVec.ofNat 8 v.toNat)) = true ↔
      v.toNat = 1 ∨ (s.hw.intLatch = .nmi ∧ ag ≠ .cpu) := by
    have h1 : v = 1 ↔ v.toNat = 1 := by bv_omega
    rw [protocolForbids_iff (t := .intLatch) hv, and_iff_right rfl, h1]
  refine ⟨fun hc => ?_, fun hc => ?_⟩
  · exact execStore_of_forbidden (t := .intLatch) hs hv (hforbids.mpr hc)
  · rw [← latchOfCode_of_ne_one h fun h1 => hc (.inl h1)]
    exact execStore_of_allowed (t := .intLatch) hs hv (Bool.eq_false_iff.mpr (mt hforbids.mp hc))

/-- Settles O20: check 7 alone looks at the agent, and it passes for every other token. -/
theorem agentMattersOnlyToTheLatch : Obligations.AgentMattersOnlyToTheLatch := by
  intro s ag ag' t val
  refine ⟨rfl, fun ht hval => ?_, rfl, rfl⟩
  cases hs : s.status with
  | aborted rec => rw [exec_aborted _ hs, exec_aborted _ hs]
  | running =>
    obtain ⟨v, hv⟩ := Option.isSome_iff_exists.mp ((decodeValue_isSome _ _ _).trans hval)
    have hallowed : ∀ g : Agent, protocolForbids g s.hw t v = false := fun g =>
      Bool.eq_false_iff.mpr fun hf => ht ((protocolForbids_iff hv).mp hf).1
    exact (execStore_of_allowed hs hv (hallowed ag)).trans (execStore_of_allowed hs hv (hallowed ag')).symm

end Sys2Proof.Machine

namespace Sys2Proof.Machine

open Sys2Proof.Slice0

/-! ### TICK and CLASSIFY in the terms of the statements (spec R130, R131) -/

theorem wraps_iff {s c : Nat} : Wraps s c ↔ 261 < tickCarry s c := by
  unfold Wraps tickCarry
  split_ifs <;> omega

theorem scan_tick (p : Params) (h : Hardware) : scan (tick p h) = nextScanline (scan h) (cyc h) := by
  rw [scan, tick_scanline_toNat, tickScanline_eq_nextScanline]
  rfl

theorem cyc_tick (p : Params) (h : Hardware) : cyc (tick p h) = nextCycle (cyc h) := by
  rw [cyc, tick_cycle_toNat, tickCycle_eq_nextCycle]
  rfl

theorem frame_tick_of_wraps {p : Params} (hp : p.wf) {h : Hardware} (hw : Wraps (scan h) (cyc h)) :
    (tick p h).frame.toNat = (h.frame.toNat + 1) % 2 ^ p.frameWidth := by
  rw [tick_frame_toNat hp, tickFrame]
  exact if_pos (wraps_iff.mp hw)

theorem frame_tick_of_not_wraps {p : Params} {h : Hardware} (hw : ¬ Wraps (scan h) (cyc h)) :
    (tick p h).frame = h.frame := by
  have hf : tickFrame p.frameWidth h.scanline.toNat h.cycle.toNat h.frame.toNat = h.frame.toNat :=
    if_neg (mt wraps_iff.mpr hw)
  rw [tick_frame, hf, BitVec.ofNat_toNat, BitVec.setWidth_eq]

theorem tick_ticked {p : Params} (hp : p.wf) (h : Hardware) : Ticked p h (tick p h) :=
  ⟨rfl, cyc_tick p h, scan_tick p h, frame_tick_of_wraps hp, frame_tick_of_not_wraps⟩

/-- Settles O21: each phase's condition is read off the branches of CLASSIFY. -/
theorem classifySelectsEachPhase : Obligations.ClassifySelectsEachPhase := by
  intro s c
  refine ⟨classify_visible, ?_, ?_, ?_, classify_enterVblank, classify_exitVblank, ?_, classify_unreachable⟩
  all_goals
    unfold classify
    split_ifs <;> simp <;> omega

theorem phaseOf_visible (h : Hardware) : phaseOf h = .visible ↔ VisibleAt h := classify_visible

theorem phaseOf_tick_visible (p : Params) (h : Hardware) :
    phaseOf (tick p h) = .visible ↔
      nextScanline (scan h) (cyc h) ≤ 239 ∧ 1 ≤ nextCycle (cyc h) ∧ nextCycle (cyc h) ≤ 256 := by
  rw [phaseOf_tick, classify_visible]

theorem phaseOf_tick_ne_unreachable (p : Params) (h : Hardware) : phaseOf (tick p h) ≠ .unreachable := fun hp => by
  have hle := (tick_inRange p h).2
  have hge := classify_unreachable.mp hp
  omega

/-! ### The body of STEP, phase by phase (spec R132) -/

theorem stepBody_of_action {p : Params} {h h' : Hardware}
    (ha : phaseAction p (phaseOf (tick p h)) (tick p h) = .ok h') : stepBody p h = .ok h' := by
  simp only [stepBody, ha]

theorem stepBody_of_action_error {p : Params} {h : Hardware} {c : FaultCause}
    (ha : phaseAction p (phaseOf (tick p h)) (tick p h) = .error c) :
    stepBody p h = .error (c.recordAt (tick p h).pos) := by
  simp only [stepBody, ha]

/-- The phases whose action does nothing. -/
theorem phaseAction_quiet {ph : Phase} (hq : ph ∈ [Phase.idleRender, .prefetch, .postrender, .vblankIdle])
    (p : Params) (h : Hardware) : phaseAction p ph h = .ok h := by
  simp only [List.mem_cons, List.not_mem_nil, or_false] at hq
  obtain rfl | rfl | rfl | rfl := hq <;> rfl

theorem quiet_of_ne {ph : Phase} (hv : ph ≠ .visible) (he : ph ≠ .enterVblank) (hx : ph ≠ .exitVblank)
    (hu : ph ≠ .unreachable) : ph ∈ [Phase.idleRender, .prefetch, .postrender, .vblankIdle] := by
  cases ph <;> simp_all

theorem stepBody_of_quiet {p : Params} {h : Hardware}
    (hq : phaseOf (tick p h) ∈ [Phase.idleRender, .prefetch, .postrender, .vblankIdle]) :
    stepBody p h = .ok (tick p h) := stepBody_of_action (phaseAction_quiet hq _ _)

theorem stepBody_of_enter {p : Params} {h : Hardware} (hn : NextPosition h 241 1) :
    stepBody p h = .ok (raiseVblank (tick p h)) :=
  stepBody_of_action (by rw [(phaseOf_tick_enterVblank p h).mpr hn]; rfl)

theorem stepBody_of_exit {p : Params} {h : Hardware} (hn : NextPosition h 261 1) :
    stepBody p h = .ok (clearVblank (tick p h)) :=
  stepBody_of_action (by rw [(phaseOf_tick_exitVblank p h).mpr hn]; rfl)

/-- Settles O22: the position is not Visible and no TICK reaches phase 7, so the action is one of the other six. -/
theorem stepOffTheScreen : Obligations.StepOffTheScreen := by
  intro s ag hs hp hoff
  refine ⟨tick s.params s.hw, tick_ticked hp s.hw, fun hn => ?_, fun hn => ?_, fun hne hnx => ?_⟩
  · exact execStep_of_ok ag hs (stepBody_of_enter hn)
  · exact execStep_of_ok ag hs (stepBody_of_exit hn)
  · refine execStep_of_ok ag hs (stepBody_of_quiet (quiet_of_ne ?_ ?_ ?_ (phaseOf_tick_ne_unreachable _ _)))
    · exact mt (phaseOf_tick_visible _ _).mp hoff
    · exact mt (phaseOf_tick_enterVblank _ _).mp hne
    · exact mt (phaseOf_tick_exitVblank _ _).mp hnx

/-! ### The phase actions by themselves (log 13) -/

theorem exec_quiet {s : State} {ph : Phase} (hs : s.status = .running)
    (hq : ph ∈ [Phase.idleRender, .prefetch, .postrender, .vblankIdle]) :
    exec ph.instr s = .next { s with result := none } := by
  simp only [List.mem_cons, List.not_mem_nil, or_false] at hq
  obtain rfl | rfl | rfl | rfl := hq <;> exact runAction_ok s.hw hs

/-- Settles O26: the actions are no action, and the STEP is the TICK they follow. -/
theorem noActionPhasesDoNothing : Obligations.NoActionPhasesDoNothing := by
  intro s hs
  refine ⟨exec_quiet (ph := .idleRender) hs (by simp), exec_quiet (ph := .prefetch) hs (by simp),
    exec_quiet (ph := .postrender) hs (by simp), exec_quiet (ph := .vblankIdle) hs (by simp), fun ag hp hq => ?_⟩
  rw [← phaseOf_tick s.params] at hq
  exact ⟨_, tick_ticked hp s.hw, execStep_of_ok ag hs (stepBody_of_quiet hq)⟩

/-- Settles O27: the action is `raiseVblank`, whose latch looks at NmiEnable. -/
theorem enterVblankRaisesTheFlag : Obligations.EnterVblankRaisesTheFlag := by
  intro s hs
  have h : exec .enterVblank s = .next (complete s (raiseVblank s.hw)) := runAction_ok _ hs
  refine ⟨fun hen => ?_, fun hen => ?_⟩ <;> simp [h, complete, raiseVblank, hen]

/-- Settles O28: the action is `clearVblank`, which CLASSIFY selects at (261, 1). -/
theorem exitVblankClearsTheFlag : Obligations.ExitVblankClearsTheFlag :=
  fun s hs => ⟨runAction_ok (clearVblank s.hw) hs, fun ag hn =>
    ⟨_, execStep_of_ok ag hs (stepBody_of_exit hn), hs, rfl, rfl, rfl⟩⟩

theorem instr_eq_unreachable {ph : Phase} (h : ph.instr = .unreachable) : ph = .unreachable := by
  cases ph <;> cases h
  rfl

/-- Settles O29: the action faults at every position, and no TICK reaches a position of its phase. -/
theorem unreachablePhaseAborts : Obligations.UnreachablePhaseAborts := by
  refine ⟨fun s hs => runAction_error _ hs, fun l c hl => ?_, fun p h hi => ?_⟩
  · rw [classify_unreachable.mpr hl]
    rfl
  · exact phaseOf_tick_ne_unreachable p h (instr_eq_unreachable hi)

/-- Settles O33: CLASSIFY calls exactly those positions Visible. -/
theorem visibleNeedsACoordinate : Obligations.VisibleNeedsACoordinate := by
  intro s hs hv
  rw [exec, execVisible, ifRunning_running _ hs, if_neg (mt (phaseOf_visible s.hw).mp hv)]

/-- The meaning of the current position's phase is its action. -/
theorem exec_phaseOf {s : State} (hs : s.status = .running) :
    exec (phaseOf s.hw).instr s = runAction s (phaseAction s.params (phaseOf s.hw) s.hw) := by
  cases hph : phaseOf s.hw with
  | visible => rw [Phase.instr, exec, execVisible, ifRunning_running _ hs, if_pos hph]; rfl
  | _ => rfl

/-- Settles O24: both sides are the one phase action on the ticked state. -/
theorem stepDispatchesThePhaseAction : Obligations.StepDispatchesThePhaseAction := by
  intro s ag hs
  have hexec := exec_phaseOf (s := { s with hw := tick s.params s.hw }) hs
  cases ha : phaseAction s.params (phaseOf (tick s.params s.hw)) (tick s.params s.hw) with
  | ok h' =>
    refine ⟨complete s h', ?_, fun _ => execStep_of_ok ag hs (stepBody_of_action ha), fun rec hr => ?_⟩
    · exact hexec.trans (ha ▸ runAction_ok h' hs)
    · cases hs.symm.trans hr
  | error c =>
    refine ⟨takeFault s (tick s.params s.hw) (c.recordAt (tick s.params s.hw).pos), ?_, fun hr => ?_, fun _ _ => ?_⟩
    · exact hexec.trans (ha ▸ runAction_error c hs)
    · cases hr
    · exact execStep_of_error ag hs (stepBody_of_action_error ha)

/-! ### What STEP and STEP_FRAME end in and leave (spec R25, R26, R45) -/

theorem ActionEffect.inRange {h h' : Hardware} (e : ActionEffect h h') (hr : h.InRange) : h'.InRange := by
  cases e <;> exact hr

theorem stepBody_inRange {p : Params} {h h' : Hardware} (hb : stepBody p h = .ok h') : h'.InRange :=
  (stepBody_ok hb).inRange (tick_inRange p h)

theorem stepBodies_of_ok {p : Params} {h h1 : Hardware} (hb : stepBody p h = .ok h1) (n : Nat) :
    stepBodies p (n + 1) h = stepBodies p n h1 := by rw [stepBodies, hb]

theorem stepBodies_of_error {p : Params} {h : Hardware} {rec : FaultRecord} (hb : stepBody p h = .error rec)
    (n : Nat) : stepBodies p (n + 1) h = (h, some rec) := by rw [stepBodies, hb]

/-- One body or more leaves the position in range, whatever it was. -/
theorem stepBodies_inRange {p : Params} {n : Nat} {h h' : Hardware} (hb : stepBodies p (n + 1) h = (h', none)) :
    h'.InRange := by
  cases h1b : stepBody p h with
  | error rec => cases hb.symm.trans (stepBodies_of_error h1b n)
  | ok h1 =>
    have hk := stepBodies_keeps (p := p) (P := Hardware.InRange) (fun _ _ _ hs => stepBody_inRange hs) n h1
      (stepBody_inRange h1b)
    rwa [← stepBodies_of_ok h1b, hb] at hk

theorem PipelineFault.code {c : FaultCause} (hc : PipelineFault c) :
    c.code = .ppuAddressOverflow ∨ c.code = .paletteIndexRange := by
  obtain ⟨n, -, rfl⟩ | ⟨pb, pi, -, -, rfl⟩ := hc
  · exact .inl rfl
  · exact .inr rfl

theorem stepBody_error_code {p : Params} {h : Hardware} {rec : FaultRecord} (hb : stepBody p h = .error rec) :
    rec.code = .ppuAddressOverflow ∨ rec.code = .paletteIndexRange := by
  obtain ⟨c, hc, rfl⟩ := stepBody_error hb
  exact hc.code

/-- Settles O25: a TICK leaves the position in range, so no action is phase 7's. -/
theorem phaseSevenIsNeverReached : Obligations.PhaseSevenIsNeverReached := by
  intro s t ag hs h
  obtain h | h := h
  · obtain ⟨-, ⟨h', hb, rfl⟩ | ⟨rec, hb, rfl⟩⟩ := execStep_next (ag := ag) h
    · exact ⟨fun _ => stepBody_inRange hb, fun rec hr => by cases hs.symm.trans hr⟩
    · exact ⟨fun hr => (by cases hr), fun _ hr => by cases hr; exact stepBody_error_code hb⟩
  · obtain ⟨-, ⟨h', hb, rfl⟩ | ⟨h', rec, hb, rfl⟩⟩ := execStepFrame_next (ag := ag) h
    · exact ⟨fun _ => stepBodies_inRange hb, fun rec hr => by cases hs.symm.trans hr⟩
    · obtain ⟨k, -, -, hfault⟩ := stepBodies_error _ _ hb
      exact ⟨fun hr => (by cases hr), fun _ hr => by cases hr; exact stepBody_error_code hfault⟩

theorem EngineLeaves.trans {h h1 h2 : Hardware} (e1 : EngineLeaves h h1) (e2 : EngineLeaves h1 h2) :
    EngineLeaves h h2 := by
  refine Eq.trans e2 ?_
  conv_lhs => rw [show h1 = _ from e1]

theorem ActionEffect.engineLeaves {h h' : Hardware} (e : ActionEffect h h') : EngineLeaves h h' := by
  cases e <;> rfl

theorem phaseAction_engineLeaves {p : Params} {ph : Phase} {h h' : Hardware} (ha : phaseAction p ph h = .ok h') :
    EngineLeaves h h' := by
  cases ph with
  | visible =>
    obtain ⟨i, -, rfl⟩ := renderPixel_ok (show renderPixel p h _ _ = .ok h' from ha)
    rfl
  | unreachable => cases ha
  | _ => cases ha; rfl

theorem stepBody_engineLeaves {p : Params} {h h' : Hardware} (hb : stepBody p h = .ok h') : EngineLeaves h h' :=
  EngineLeaves.trans (h1 := tick p h) rfl (stepBody_ok hb).engineLeaves

theorem stepBodies_engineLeaves (p : Params) (n : Nat) (h : Hardware) : EngineLeaves h (stepBodies p n h).1 :=
  stepBodies_keeps (P := EngineLeaves h) (fun _ _ he hb => EngineLeaves.trans he (stepBody_engineLeaves hb)) n h rfl

theorem execStepFrame_engineLeaves {s t : State} {ag : Agent} (h : execStepFrame ag s = .next t) :
    EngineLeaves s.hw t.hw := by
  have he := stepBodies_engineLeaves s.params frameSteps s.hw
  obtain ⟨-, ⟨h', hb, rfl⟩ | ⟨h', rec, hb, rfl⟩⟩ := execStepFrame_next h <;> rwa [hb] at he

/-- Settles O36: each part of the engine leaves those tokens, and so do its bodies in a row. -/
theorem engineWritesOnlyItsTokens : Obligations.EngineWritesOnlyItsTokens := by
  intro s t i hload hstore h
  refine ⟨?_, exec_params_commands h⟩
  obtain ⟨ag, r, rfl⟩ | ⟨ag, r, v, rfl⟩ | ⟨ag, rfl⟩ | ⟨ag, rfl⟩ | ⟨ph, rfl⟩ := instr_cases i
  · exact absurd rfl (hload ag r)
  · exact absurd rfl (hstore ag r v)
  · obtain ⟨-, ⟨h', hb, rfl⟩ | ⟨rec, -, rfl⟩⟩ := execStep_next (ag := ag) h
    · exact stepBody_engineLeaves hb
    · rfl
  · exact execStepFrame_engineLeaves (ag := ag) h
  · obtain ⟨-, ⟨h', ha, rfl⟩ | ⟨c, -, rfl⟩⟩ := runAction_next (exec_phase_next h)
    · exact phaseAction_engineLeaves ha
    · rfl

/-- An action writes no pixel but that of its own Visible position. -/
theorem ActionEffect.readPixel_other {h h' : Hardware} (e : ActionEffect h h') {x y : Nat} (hx : x < 256)
    (hne : ¬ (scan h = y ∧ cyc h = x + 1)) : readPixel h'.screen x y = readPixel h.screen x y := by
  cases e with
  | pixel at' col =>
    obtain ⟨-, hc, hc'⟩ := (phaseOf_visible h).mp at'
    refine readPixel_writePixel_other _ _ (show cyc h - 1 < 256 by omega) hx fun he => hne ?_
    obtain ⟨rfl, rfl⟩ := Prod.mk.inj he
    exact ⟨rfl, show cyc h = cyc h - 1 + 1 by omega⟩
  | _ => rfl

theorem stepBody_readPixel_other {p : Params} {h h' : Hardware} (hb : stepBody p h = .ok h') {x y : Nat}
    (hx : x < 256) (hne : ¬ NextPosition h y (x + 1)) : readPixel h'.screen x y = readPixel h.screen x y :=
  (stepBody_ok hb).readPixel_other hx (by rwa [scan_tick, cyc_tick])

/-- Settles O37: an action writes by its phase, and each phase has its positions. -/
theorem stepWritesFlagsAndOnePixel : Obligations.StepWritesFlagsAndOnePixel := by
  intro s t ag hs h ht
  have hb := stepBody_of_execStep_running (ag := ag) h ht
  have hv := stepBody_vblank_iff hb
  refine ⟨fun hn => hv.mpr (.inl hn), fun hn => ?_, fun hne hnx => ?_, fun x y hx hne => ?_⟩
  · have hne : ¬ NextPosition s.hw 241 1 := fun he => by cases he.1.symm.trans hn.1
    exact Bool.eq_false_iff.mpr fun hvb => (hv.mp hvb).elim hne fun hc => hc.2 hn
  · exact Bool.eq_iff_iff.mpr (hv.trans (by simp [hne, hnx]))
  · exact stepBody_readPixel_other hb hx hne

end Sys2Proof.Machine

namespace Sys2Proof.Machine

open Sys2Proof.Slice0

/-! ### The stages of the pipeline in plain arithmetic (spec R172 to R176) -/

theorem scrollOfX_lt (h : Hardware) (x : Nat) : scrollOfX h x < 256 := Nat.mod_lt _ (by decide)

theorem scrollOfY_lt (h : Hardware) (y : Nat) : scrollOfY h y < 240 := Nat.mod_lt _ (by decide)

section
variable {sx sy : Nat} (hx : sx < 256) (hy : sy < 240)
include hx hy

theorem nametableAddr_eq (h : Hardware) :
    nametableAddr h (tileX sx) (tileY sy) = tileAddress h.nametableBase.toNat sx sy := by
  unfold nametableAddr tileX tileY tileAddress
  omega

theorem attributeAddr_eq (h : Hardware) :
    attributeAddr h (tileX sx) (tileY sy) = groupAddress h.nametableBase.toNat sx sy := by
  unfold attributeAddr attributeGroup tileX tileY groupAddress
  omega

theorem attributeShift_eq : attributeShift (tileX sx) (tileY sy) = 2 * (sx / 16 % 2) + 4 * (sy / 16 % 2) := by
  unfold attributeShift tileX tileY
  split_ifs <;> omega

theorem attributeColor_eq (v : Byte) :
    attributeColor v (tileX sx) (tileY sy) = attributeNumber v.toNat sx sy := by
  rw [attributeColor, attributeShift_eq hx hy, Nat.shiftRight_eq_div_pow, attributeNumber]
  exact Nat.and_two_pow_sub_one_eq_mod _ 2

end

theorem patternColor_eq (lo hi : Byte) (sx : Nat) : patternColor lo hi sx = patternNumber lo.toNat hi.toNat sx := by
  have hlo := bitOf_lt lo (7 - sx % 8)
  rw [patternColor, ← Nat.shiftLeft_add_eq_or_of_lt (by exact hlo), Nat.shiftLeft_eq, bitOf, bitOf, patternNumber,
    Nat.shiftRight_eq_div_pow, Nat.shiftRight_eq_div_pow]
  omega

theorem paletteIndex_eq {acol pat : Nat} (hp : pat < 4) : paletteIndex acol pat = 4 * acol + pat := by
  rw [paletteIndex, ← Nat.shiftLeft_add_eq_or_of_lt (by exact hp), Nat.shiftLeft_eq]
  omega

/-- The palette index of the bytes read. -/
theorem paletteIndex_of_reads (h : Hardware) (x y : Nat) (lo hi att : Byte) :
    paletteIndex (attributeColor att (tileX (scrolledX h x)) (tileY (scrolledY h y)))
        (patternColor lo hi (scrolledX h x)) =
      4 * attributeNumber att.toNat (scrollOfX h x) (scrollOfY h y) +
        patternNumber lo.toNat hi.toNat (scrollOfX h x) := by
  rw [paletteIndex_eq (patternColor_lt _ _ _), patternColor_eq]
  congr 2
  exact attributeColor_eq (scrollOfX_lt h x) (scrollOfY_lt h y) att

/-- The pipeline as its reads and its palette check in a row (spec R180). -/
theorem pixelIndex_eq (p : Params) (h : Hardware) (x y : Nat) :
    pixelIndex p h x y = (do
      let tile ← readPpu p h (tileAddress h.nametableBase.toNat (scrollOfX h x) (scrollOfY h y))
      let lo ← readPpu p h (planeAddress h.bgPatternBase.toNat tile.toNat (scrollOfY h y))
      let hi ← readPpu p h (planeAddress h.bgPatternBase.toNat tile.toNat (scrollOfY h y) + 8)
      let att ← readPpu p h (groupAddress h.nametableBase.toNat (scrollOfX h x) (scrollOfY h y))
      let pi := 4 * attributeNumber att.toNat (scrollOfX h x) (scrollOfY h y) +
        patternNumber lo.toNat hi.toNat (scrollOfX h x)
      checkPalette p (readByte h.ppuMem (0x3F00 + pi)) pi) := by
  have hplane : ∀ tile : Byte, patternAddr h tile (scrolledY h y % 8) =
      planeAddress h.bgPatternBase.toNat tile.toNat (scrollOfY h y) := fun _ => rfl
  have htile : nametableAddr h (tileX (scrolledX h x)) (tileY (scrolledY h y)) = _ :=
    nametableAddr_eq (scrollOfX_lt h x) (scrollOfY_lt h y) h
  have hgroup : attributeAddr h (tileX (scrolledX h x)) (tileY (scrolledY h y)) = _ :=
    attributeAddr_eq (scrollOfX_lt h x) (scrollOfY_lt h y) h
  unfold pixelIndex
  simp only [paletteIndex_of_reads, hplane, htile, hgroup, bind, Except.bind]
  cases readPpu p h (tileAddress h.nametableBase.toNat (scrollOfX h x) (scrollOfY h y)) with
  | error e => rfl
  | ok tile =>
    dsimp only
    cases readPpu p h (planeAddress h.bgPatternBase.toNat tile.toNat (scrollOfY h y)) with
    | error e => rfl
    | ok lo =>
      dsimp only
      cases readPpu p h (planeAddress h.bgPatternBase.toNat tile.toNat (scrollOfY h y) + 8) with
      | error e => rfl
      | ok hi =>
        dsimp only
        cases readPpu p h (groupAddress h.nametableBase.toNat (scrollOfX h x) (scrollOfY h y)) <;> rfl

/-! ### The reads and the palette check (spec R178, R179) -/

theorem readPpu_wrap16 {p : Params} (hp : p.overflowPolicy = .wrap16) (h : Hardware) (n : Nat) :
    readPpu p h n = .ok (readByte h.ppuMem (n % 65536)) := by
  by_cases hn : n ≤ 0xFFFF
  · rw [readPpu_of_le p h hn, Nat.mod_eq_of_lt (by omega)]
  · simp [readPpu, formAddress, hn, hp]

theorem readPpu_overflow {p : Params} (hp : p.overflowPolicy = .fault) (h : Hardware) {n : Nat} (hn : 0xFFFF < n) :
    readPpu p h n = .error ⟨.ppuAddressOverflow, .address n⟩ := by
  simp [readPpu, formAddress, show ¬ n ≤ 0xFFFF by omega, hp]

theorem readPpu_bind_of_le {α : Type} {p : Params} {h : Hardware} {n : Nat} (hn : n ≤ 0xFFFF)
    (k : Byte → Except FaultCause α) : readPpu p h n >>= k = k (readByte h.ppuMem n) := by
  rw [readPpu_of_le p h hn]
  rfl

theorem readPpu_bind_of_overflow {α : Type} {p : Params} (hp : p.overflowPolicy = .fault) {h : Hardware} {n : Nat}
    (hn : 0xFFFF < n) (k : Byte → Except FaultCause α) :
    readPpu p h n >>= k = .error ⟨.ppuAddressOverflow, .address n⟩ := by
  rw [readPpu_overflow hp h hn]
  rfl

theorem checkPalette_ok {p : Params} {pb : Byte} (h : pb.toNat < 0x40 ∨ p.palettePolicy = .mask6) (pi : Nat) :
    checkPalette p pb pi = .ok (BitVec.ofNat 6 (pb.toNat % 0x40)) := by
  have hpb : BitVec.ofNat 6 (pb.toNat % 0x40) = pb.setWidth 6 := by
    apply BitVec.eq_of_toNat_eq
    simp
  rw [hpb, checkPalette]
  split
  · rfl
  · rw [h.resolve_left (by assumption)]

theorem checkPalette_fault {p : Params} (hp : p.palettePolicy = .fault) {pb : Byte} (h : 0x40 ≤ pb.toNat) (pi : Nat) :
    checkPalette p pb pi = .error ⟨.paletteIndexRange, .palette pb pi⟩ := by
  rw [checkPalette, if_neg (by omega), hp]

/-- With the pixel's own addresses in range every read names its cell directly. -/
theorem pixelIndex_of_fits (p : Params) {h : Hardware} {x y : Nat} (hf : PixelFits h x y) :
    pixelIndex p h x y = checkPalette p (readByte h.ppuMem (0x3F00 + pixelNumber h x y)) (pixelNumber h x y) := by
  obtain ⟨htile, hplane, hgroup⟩ := hf
  exact (pixelIndex_eq p h x y).trans ((readPpu_bind_of_le htile _).trans
    ((readPpu_bind_of_le (Nat.le_of_add_right_le hplane) _).trans
      ((readPpu_bind_of_le hplane _).trans (readPpu_bind_of_le hgroup _))))

theorem pixelIndex_ok_of_fits {p : Params} {h : Hardware} {x y : Nat} (hf : PixelFits h x y)
    (hpal : ppu h (0x3F00 + pixelNumber h x y) < 0x40 ∨ p.palettePolicy = .mask6) :
    pixelIndex p h x y = .ok (BitVec.ofNat 6 (ppu h (0x3F00 + pixelNumber h x y) % 0x40)) :=
  (pixelIndex_of_fits p hf).trans (checkPalette_ok hpal _)

/-- Under `wrap16` every read names the cell at the address modulo 65536. -/
theorem pixelIndex_of_wrap16 {p : Params} (hp : p.overflowPolicy = .wrap16) (h : Hardware) (x y : Nat) :
    pixelIndex p h x y =
      checkPalette p (readByte h.ppuMem (0x3F00 + wrappedPixelNumber h x y)) (wrappedPixelNumber h x y) := by
  simp only [pixelIndex_eq, readPpu_wrap16 hp]
  rfl

/-! ### VISIBLE by itself (spec R135) -/

theorem exec_visible {s : State} (hs : s.status = .running) (hv : VisibleAt s.hw) :
    exec .visible s = runAction s (renderPixel s.params s.hw (cyc s.hw - 1) (scan s.hw)) := by
  rw [exec, execVisible, ifRunning_running _ hs, if_pos ((phaseOf_visible s.hw).mpr hv)]
  rfl

theorem renderPixel_of_index {p : Params} {h : Hardware} {x y n : Nat}
    (hi : pixelIndex p h x y = .ok (BitVec.ofNat 6 n)) : renderPixel p h x y = .ok (rendered h x y n) := by
  simp only [renderPixel, hi]
  rfl

theorem renderPixel_of_fault {p : Params} {h : Hardware} {x y : Nat} {c : FaultCause}
    (hi : pixelIndex p h x y = .error c) : renderPixel p h x y = .error c := by
  simp only [renderPixel, hi]

theorem exec_visible_of_index {s : State} {n : Nat} (hs : s.status = .running) (hv : VisibleAt s.hw)
    (hi : pixelIndex s.params s.hw (cyc s.hw - 1) (scan s.hw) = .ok (BitVec.ofNat 6 n)) :
    exec .visible s = .next { s with hw := rendered s.hw (cyc s.hw - 1) (scan s.hw) n, result := none } := by
  rw [exec_visible hs hv, renderPixel_of_index hi, runAction_ok _ hs]
  rfl

theorem exec_visible_of_fault {s : State} {code : FaultCode} {info : FaultInfo} (hs : s.status = .running)
    (hv : VisibleAt s.hw) (hi : pixelIndex s.params s.hw (cyc s.hw - 1) (scan s.hw) = .error ⟨code, info⟩) :
    exec .visible s = abortedHere s code info := by
  rw [exec_visible hs hv, renderPixel_of_fault hi, runAction_error _ hs]
  rfl

/-- Settles O30: the addresses in range name their cells, and the palette check passes. -/
theorem visibleRendersThePixel : Obligations.VisibleRendersThePixel :=
  fun _ hs hv hfits hpal => exec_visible_of_index hs hv (pixelIndex_ok_of_fits hfits hpal)

/-- Settles O31: every address is reduced, and only the palette check can fault. -/
theorem visibleWrapsAddresses : Obligations.VisibleWrapsAddresses := by
  rintro s pi hs hv hp rfl
  have hpix := pixelIndex_of_wrap16 hp s.hw (cyc s.hw - 1) (scan s.hw)
  refine ⟨fun hpal => ?_, fun hpal hpol => ?_⟩
  · exact exec_visible_of_index hs hv (hpix.trans (checkPalette_ok hpal _))
  · exact exec_visible_of_fault hs hv (hpix.trans (checkPalette_fault hpol hpal _))

/-- Settles O32: the reads before the first address that overflows name their cells directly. -/
theorem visibleRaisesTheFirstFault : Obligations.VisibleRaisesTheFirstFault := by
  rintro s sx sy ntb pb tile hs hv rfl rfl rfl rfl rfl
  have hpix := pixelIndex_eq s.params s.hw (cyc s.hw - 1) (scan s.hw)
  refine ⟨fun hp => ⟨fun htile => ?tile, fun htile hplane => ?plane0, fun htile hplane hplane8 => ?plane1,
    fun htile hplane8 hgroup => ?group⟩, fun hp htile hplane8 hgroup hpal => ?palette⟩
  case tile => exact exec_visible_of_fault hs hv (hpix.trans (readPpu_bind_of_overflow hp htile _))
  case plane0 =>
    exact exec_visible_of_fault hs hv
      (hpix.trans ((readPpu_bind_of_le htile _).trans (readPpu_bind_of_overflow hp hplane _)))
  case plane1 =>
    exact exec_visible_of_fault hs hv (hpix.trans ((readPpu_bind_of_le htile _).trans
      ((readPpu_bind_of_le hplane _).trans (readPpu_bind_of_overflow hp hplane8 _))))
  case group =>
    exact exec_visible_of_fault hs hv (hpix.trans ((readPpu_bind_of_le htile _).trans
      ((readPpu_bind_of_le (Nat.le_of_add_right_le hplane8) _).trans
        ((readPpu_bind_of_le hplane8 _).trans (readPpu_bind_of_overflow hp hgroup _)))))
  case palette =>
    exact exec_visible_of_fault hs hv
      ((pixelIndex_of_fits s.params ⟨htile, hplane8, hgroup⟩).trans (checkPalette_fault hp hpal _))

/-! ### What a pixel depends on (spec R30, R181) -/

/-- VISIBLE that answers a next state stored the pixel's colour or took the pipeline's fault. -/
theorem exec_visible_next {s t : State} (h : exec .visible s = .next t) :
    s.status = .running ∧
      ((∃ i, pixelIndex s.params s.hw (cyc s.hw - 1) (scan s.hw) = .ok i ∧
          t = complete s { s.hw with
            screen := writePixel s.hw.screen (cyc s.hw - 1) (scan s.hw) (Config.hwPalette i) }) ∨
        ∃ c, pixelIndex s.params s.hw (cyc s.hw - 1) (scan s.hw) = .error c ∧
          t = takeFault s s.hw (c.recordAt s.hw.pos)) := by
  obtain ⟨hs, ⟨h', ha, rfl⟩ | ⟨c, ha, rfl⟩⟩ := runAction_next (exec_phase_next (ph := .visible) h)
  · obtain ⟨i, hi, rfl⟩ := renderPixel_ok (show renderPixel _ s.hw (cyc s.hw - 1) (scan s.hw) = _ from ha)
    exact ⟨hs, .inl ⟨i, hi, rfl⟩⟩
  · refine ⟨hs, .inr ⟨c, ?_, rfl⟩⟩
    have hr : renderPixel s.params s.hw (cyc s.hw - 1) (scan s.hw) = .error c := ha
    cases hi : pixelIndex s.params s.hw (cyc s.hw - 1) (scan s.hw) with
    | ok i => simp only [renderPixel, hi] at hr; cases hr
    | error c' => rw [renderPixel_of_fault hi] at hr; cases hr; rfl

/-- Two VISIBLEs at one position, on one screen and of one palette index or fault, end with one screen and status. -/
theorem exec_visible_same {s s' t t' : State} (h : exec .visible s = .next t) (h' : exec .visible s' = .next t')
    (hc : s.hw.cycle = s'.hw.cycle)
    (hl : s.hw.scanline = s'.hw.scanline) (hscr : s.hw.screen = s'.hw.screen)
    (hpix : pixelIndex s.params s.hw (cyc s.hw - 1) (scan s.hw) =
      pixelIndex s'.params s'.hw (cyc s'.hw - 1) (scan s'.hw)) :
    t.hw.screen = t'.hw.screen ∧ t.status = t'.status := by
  obtain ⟨hs, ⟨i, hi, rfl⟩ | ⟨c, hi, rfl⟩⟩ := exec_visible_next h <;>
    obtain ⟨hs', ⟨i', hi', rfl⟩ | ⟨c', hi', rfl⟩⟩ := exec_visible_next h' <;>
    cases hi.symm.trans (hpix.trans hi')
  · refine ⟨?_, hs.trans hs'.symm⟩
    simp only [complete_hw, cyc, scan, hc, hl, hscr]
  · refine ⟨hscr, ?_⟩
    simp only [takeFault_status, Hardware.pos, hc, hl]

/-- Settles O34: the palette index or fault is the same. -/
theorem pixelDependsOnlyOnItsInputs : Obligations.PixelDependsOnlyOnItsInputs := by
  intro s s' t t' _ _ hp hc hl hx hy hn hb hm hscr h h'
  refine exec_visible_same h h' hc hl hscr ?_
  rw [hp, show cyc s.hw = cyc s'.hw from congrArg BitVec.toNat hc,
    show scan s.hw = scan s'.hw from congrArg BitVec.toNat hl]
  exact pixelIndex_congr hx hy hn hb fun a => BitVec.eq_of_toNat_eq (hm a)

theorem scrollOfY_sub_240 {h : Hardware} {v : Byte} (hv : h.scrollY = v) (hge : 240 ≤ v.toNat) (y : Nat) :
    scrollOfY { h with scrollY := v - 240 } y = scrollOfY h y := by
  have hsub : (v - 240).toNat + 240 = v.toNat := by bv_omega
  simp only [scrollOfY, hv]
  omega

theorem pixelIndex_set_scrollY {p : Params} {h : Hardware} {v : Byte} {x y : Nat}
    (hy : scrollOfY { h with scrollY := v } y = scrollOfY h y) :
    pixelIndex p { h with scrollY := v } x y = pixelIndex p h x y := by
  rw [pixelIndex_eq, pixelIndex_eq, hy]
  rfl

/-- Settles O35: the scroll enters the pipeline modulo 240. -/
theorem verticalScrollWrapsAt240 : Obligations.VerticalScrollWrapsAt240 := by
  intro s t t' v _ hv hge h h'
  exact exec_visible_same h' h rfl rfl rfl (pixelIndex_set_scrollY (scrollOfY_sub_240 hv hge _))

/-! ### A STEP onto the screen (spec R132, R135) -/

theorem tick_pixelIndex (p : Params) (h : Hardware) (x y : Nat) :
    pixelIndex p (tick p h) x y = pixelIndex p h x y := pixelIndex_congr rfl rfl rfl rfl fun _ => rfl

/-- The body of a STEP to the position of pixel (x, y) whose palette index is found. -/
theorem stepBody_of_visible {p : Params} {h : Hardware} {x y n : Nat} (hn : NextPosition h y (x + 1)) (hx : x < 256)
    (hy : y < 240) (hi : pixelIndex p h x y = .ok (BitVec.ofNat 6 n)) :
    stepBody p h = .ok (rendered (tick p h) x y n) := by
  obtain ⟨hs, hc⟩ := hn
  apply stepBody_of_action
  rw [(phaseOf_tick_visible p h).mpr (by omega)]
  have hcyc : cyc (tick p h) - 1 = x := by rw [cyc_tick]; omega
  have hscan : scan (tick p h) = y := by rw [scan_tick]; omega
  show renderPixel p (tick p h) (cyc (tick p h) - 1) (scan (tick p h)) = _
  rw [hcyc, hscan]
  exact renderPixel_of_index ((tick_pixelIndex p h x y).trans hi)

/-- Settles O23: the TICK reaches the pixel's position, where VISIBLE is dispatched. -/
theorem stepOntoTheScreen : Obligations.StepOntoTheScreen := by
  intro s ag hs hp x y hn hx hy hfits hpal
  exact ⟨tick s.params s.hw, tick_ticked hp s.hw,
    execStep_of_ok ag hs (stepBody_of_visible hn hx hy (pixelIndex_ok_of_fits hfits hpal))⟩

end Sys2Proof.Machine

namespace Sys2Proof.Machine

open Sys2Proof.Slice0

/-! ### Completed bodies of STEP in a row (spec R142) -/

theorem stepBodies_none_add {p : Params} {m n : Nat} {h h' : Hardware} :
    stepBodies p (m + n) h = (h', none) ↔
      ∃ h1, stepBodies p m h = (h1, none) ∧ stepBodies p n h1 = (h', none) := by
  induction m generalizing h with
  | zero => simp [stepBodies]
  | succ m ih =>
    rw [Nat.add_right_comm]
    cases hb : stepBody p h with
    | ok h1 => rw [stepBodies_of_ok hb, stepBodies_of_ok hb, ih]
    | error rec => simp [stepBodies_of_error hb]

theorem stepBodies_one {p : Params} {h h' : Hardware} :
    stepBodies p 1 h = (h', none) ↔ stepBody p h = .ok h' := by
  cases hb : stepBody p h with
  | ok h1 => rw [show stepBodies p 1 h = (h1, none) from stepBodies_of_ok hb 0]; simp
  | error rec => rw [show stepBodies p 1 h = (h, some rec) from stepBodies_of_error hb 0]; simp

theorem stepBodies_none_succ {p : Params} {n : Nat} {h h' : Hardware} :
    stepBodies p (n + 1) h = (h', none) ↔ ∃ h1, stepBodies p n h = (h1, none) ∧ stepBody p h1 = .ok h' := by
  simp only [stepBodies_none_add, stepBodies_one]

theorem Hardware.InRange.stepBodies {p : Params} {n : Nat} {h h' : Hardware} (hr : h.InRange)
    (hb : stepBodies p n h = (h', none)) : h'.InRange := by
  cases n with
  | zero => cases hb; exact hr
  | succ n => exact stepBodies_inRange hb

/-- What every completed STEP body keeps, completed bodies in a row keep. -/
theorem stepBodies_none_keeps {p : Params} {P : Hardware → Prop} {n : Nat} {h h' : Hardware}
    (hb : stepBodies p n h = (h', none)) (hstep : ∀ h h', P h → stepBody p h = .ok h' → P h') (h0 : P h) : P h' := by
  have hk := stepBodies_keeps hstep n h h0
  rwa [hb] at hk

/-- The `k`-th of `n` completed bodies, with those before and after it. -/
theorem stepBodies_none_split {p : Params} {k n : Nat} (hk : k < n) {h h' : Hardware}
    (hb : stepBodies p n h = (h', none)) :
    ∃ h1 h2, stepBodies p k h = (h1, none) ∧ stepBody p h1 = .ok h2 ∧
      stepBodies p (n - (k + 1)) h2 = (h', none) := by
  rw [← Nat.add_sub_cancel' (Nat.succ_le_of_lt hk)] at hb
  obtain ⟨h2, hb2, hrest⟩ := stepBodies_none_add.mp hb
  obtain ⟨h1, hb1, hbody⟩ := stepBodies_none_succ.mp hb2
  exact ⟨h1, h2, hb1, hbody, by simpa using hrest⟩

/-! ### The raster as one number (spec R133) -/

/-- The place of the current position in its frame of 89342 cycles. -/
def rasterIndex (h : Hardware) : Nat := scan h * 341 + cyc h

theorem rasterIndex_lt {h : Hardware} (hr : h.InRange) : rasterIndex h < 89342 := by
  obtain ⟨hc, hs⟩ := hr
  unfold rasterIndex scan cyc
  omega

theorem rasterIndex_tick (p : Params) {h : Hardware} (hr : h.InRange) :
    rasterIndex (tick p h) = (rasterIndex h + 1) % 89342 := by
  obtain ⟨hc, hs⟩ : cyc h ≤ 340 ∧ scan h ≤ 261 := hr
  unfold rasterIndex
  rw [scan_tick, cyc_tick]
  unfold nextScanline nextCycle
  split_ifs <;> omega

/-- An action leaves the position and the frame counter. -/
theorem ActionEffect.counters {h h' : Hardware} (e : ActionEffect h h') :
    h'.cycle = h.cycle ∧ h'.scanline = h.scanline ∧ h'.frame = h.frame := by
  cases e <;> exact ⟨rfl, rfl, rfl⟩

theorem rasterIndex_stepBody {p : Params} {h h' : Hardware} (hb : stepBody p h = .ok h') :
    rasterIndex h' = rasterIndex (tick p h) := by
  obtain ⟨hc, hs, -⟩ := (stepBody_ok hb).counters
  rw [rasterIndex, rasterIndex, scan, scan, cyc, cyc, hc, hs]

/-- The STEP body reaches the position (s, c) exactly when that is the next position. -/
theorem nextPosition_iff {p : Params} {h h' : Hardware} (hb : stepBody p h = .ok h') {s c : Nat} (hc : c < 341) :
    NextPosition h s c ↔ rasterIndex h' = s * 341 + c := by
  obtain ⟨hcyc, -⟩ : cyc (tick p h) ≤ 340 ∧ scan (tick p h) ≤ 261 := tick_inRange p h
  rw [rasterIndex_stepBody hb, rasterIndex, NextPosition, ← scan_tick p, ← cyc_tick p]
  omega

/-- After `n` more completed bodies the position is `n` cycles on. -/
theorem rasterIndex_stepBodies {p : Params} {n : Nat} {h h' : Hardware} (hr : h.InRange)
    (hb : stepBodies p n h = (h', none)) : rasterIndex h' = (rasterIndex h + n) % 89342 := by
  induction n generalizing h' with
  | zero => cases hb; rw [Nat.add_zero, Nat.mod_eq_of_lt (rasterIndex_lt hr)]
  | succ n ih =>
    obtain ⟨h1, hb1, hbody⟩ := stepBodies_none_succ.mp hb
    rw [rasterIndex_stepBody hbody, rasterIndex_tick p (hr.stepBodies hb1), ih hb1]
    omega

/-- The counters' position from its place in the frame. -/
theorem position_of_rasterIndex {h : Hardware} (hr : h.InRange) :
    cyc h = rasterIndex h % 341 ∧ scan h = rasterIndex h / 341 := by
  obtain ⟨hc, hs⟩ : cyc h ≤ 340 ∧ scan h ≤ 261 := hr
  unfold rasterIndex
  omega

/-- Every position of a frame is reached by one of its completed STEPs, whatever the position before. -/
theorem stepBodies_reach {p : Params} {h h' : Hardware} (hb : stepBodies p frameSteps h = (h', none)) {i : Nat}
    (hi : i < 89342) :
    ∃ k h1 h2, k < frameSteps ∧ stepBodies p k h = (h1, none) ∧ stepBody p h1 = .ok h2 ∧ rasterIndex h2 = i ∧
      stepBodies p (frameSteps - (k + 1)) h2 = (h', none) := by
  have hr := tick_inRange p h
  have hlt := rasterIndex_lt hr
  have hk : (i + 89342 - rasterIndex (tick p h)) % 89342 < frameSteps := Nat.mod_lt _ (by decide)
  obtain ⟨h1, h2, hb1, hbody, hrest⟩ := stepBodies_none_split hk hb
  refine ⟨_, h1, h2, hk, hb1, hbody, ?_, hrest⟩
  generalize hkdef : (i + 89342 - rasterIndex (tick p h)) % 89342 = k at hb1
  cases k with
  | zero =>
    cases hb1
    rw [rasterIndex_stepBody hbody]
    omega
  | succ k =>
    rw [Nat.add_comm] at hb1
    obtain ⟨h0, hb0, hb1⟩ := stepBodies_none_add.mp hb1
    have hbody0 := stepBodies_one.mp hb0
    have hr0 := stepBody_inRange hbody0
    have hall := rasterIndex_stepBodies hr0 (stepBodies_none_succ.mpr ⟨h1, hb1, hbody⟩)
    rw [hall, rasterIndex_stepBody hbody0]
    omega

/-- What the STEP that reaches one position makes true, and every STEP then keeps, holds after a frame: `Q` is what
every STEP keeps from the start. -/
theorem frame_establishes {p : Params} {P Q : Hardware → Prop} {i : Nat} (hi : i < 89342)
    (hQ : ∀ h h', Q h → stepBody p h = .ok h' → Q h')
    (hset : ∀ h h', Q h → stepBody p h = .ok h' → rasterIndex h' = i → P h')
    (hkeep : ∀ h h', Q h → P h → stepBody p h = .ok h' → P h') {h h' : Hardware} (h0 : Q h)
    (hb : stepBodies p frameSteps h = (h', none)) : P h' := by
  obtain ⟨k, h1, h2, -, hb1, hbody, hidx, hrest⟩ := stepBodies_reach hb hi
  have hQ1 : Q h1 := stepBodies_none_keeps hb1 hQ h0
  have h2PQ : Q h2 ∧ P h2 := ⟨hQ h1 h2 hQ1 hbody, hset h1 h2 hQ1 hbody hidx⟩
  exact (stepBodies_none_keeps (P := fun h => Q h ∧ P h) hrest
    (fun a b hab hs => ⟨hQ a b hab.1 hs, hkeep a b hab.1 hab.2 hs⟩) h2PQ).2

/-! ### The frame counter and the flags over completed bodies (spec R27, R33, R138) -/

theorem frame_stepBody {p : Params} (hp : p.wf) {h h' : Hardware} (hr : h.InRange) (hw : h.Wf p)
    (hb : stepBody p h = .ok h') :
    h'.frame.toNat = (h.frame.toNat + (rasterIndex h + 1) / 89342) % 2 ^ p.frameWidth := by
  obtain ⟨hc, hs⟩ : cyc h ≤ 340 ∧ scan h ≤ 261 := hr
  obtain ⟨-, -, hf⟩ := (stepBody_ok hb).counters
  rw [hf]
  by_cases hwrap : Wraps (scan h) (cyc h)
  · rw [frame_tick_of_wraps hp hwrap]
    have h1 : (rasterIndex h + 1) / 89342 = 1 := by unfold rasterIndex; unfold Wraps at hwrap; omega
    rw [h1]
  · rw [frame_tick_of_not_wraps hwrap]
    have h0 : (rasterIndex h + 1) / 89342 = 0 := by unfold rasterIndex; unfold Wraps at hwrap; omega
    rw [h0, Nat.add_zero, Nat.mod_eq_of_lt hw.frame]

/-- The frame counter counts the wraps of the position. -/
theorem frame_stepBodies {p : Params} (hp : p.wf) {n : Nat} {h h' : Hardware} (hr : h.InRange) (hw : h.Wf p)
    (hb : stepBodies p n h = (h', none)) :
    h'.frame.toNat = (h.frame.toNat + (rasterIndex h + n) / 89342) % 2 ^ p.frameWidth := by
  induction n generalizing h with
  | zero =>
    cases hb
    have hlt := rasterIndex_lt hr
    rw [Nat.div_eq_of_lt (by omega), Nat.add_zero, Nat.mod_eq_of_lt hw.frame]
  | succ n ih =>
    rw [Nat.add_comm] at hb
    obtain ⟨h1, hb1, hrest⟩ := stepBodies_none_add.mp hb
    have hbody := stepBodies_one.mp hb1
    rw [ih (stepBody_inRange hbody) (hw.stepBody hp hbody) hrest, frame_stepBody hp hr hw hbody, Nat.mod_add_mod,
      rasterIndex_stepBody hbody, rasterIndex_tick p hr]
    congr 1
    omega

/-- VBlank is true exactly from (241, 1) to (261, 0). -/
def VblankByPosition (h : Hardware) : Prop :=
  h.vblank = true ↔ 241 * 341 + 1 ≤ rasterIndex h ∧ rasterIndex h ≤ 261 * 341

/-- The STEP body to (241, 1) brings VBlank in line with the position. -/
theorem vblankByPosition_of_enter {p : Params} {h h' : Hardware} (hb : stepBody p h = .ok h')
    (hi : rasterIndex h' = 241 * 341 + 1) : VblankByPosition h' := by
  rw [VblankByPosition, stepBody_vblank_iff hb, nextPosition_iff hb (by decide), hi]
  simp

theorem VblankByPosition.stepBody {p : Params} {h h' : Hardware} (hv : VblankByPosition h) (hr : h.InRange)
    (hb : stepBody p h = .ok h') : VblankByPosition h' := by
  have hlt := rasterIndex_lt hr
  unfold VblankByPosition at hv ⊢
  rw [stepBody_vblank_iff hb, nextPosition_iff hb (by decide), nextPosition_iff hb (by decide), hv,
    rasterIndex_stepBody hb, rasterIndex_tick p hr]
  omega

theorem VblankByPosition.stepBodies {p : Params} {n : Nat} {h h' : Hardware} (hv : VblankByPosition h)
    (hr : h.InRange) (hb : stepBodies p n h = (h', none)) : VblankByPosition h' :=
  (stepBodies_none_keeps (P := fun h => h.InRange ∧ VblankByPosition h) hb
    (fun _ _ hh hs => ⟨stepBody_inRange hs, hh.2.stepBody hh.1 hs⟩) ⟨hr, hv⟩).2

/-- Of `n` completed bodies one enters vertical blank exactly when one of the `n` next positions is (241, 1). -/
theorem bodiesEnterVblank_iff {p : Params} {n : Nat} {h h' : Hardware} (hr : h.InRange)
    (hb : stepBodies p n h = (h', none)) :
    BodiesEnterVblank p n h ↔ ∃ k, k < n ∧ (rasterIndex h + (k + 1)) % 89342 = 241 * 341 + 1 := by
  have hidx : ∀ {k : Nat} {h1 h2 : Hardware}, stepBodies p k h = (h1, none) → stepBody p h1 = .ok h2 →
      (NextPosition h1 241 1 ↔ (rasterIndex h + (k + 1)) % 89342 = 241 * 341 + 1) := fun hk hbody => by
    rw [nextPosition_iff hbody (by decide), rasterIndex_stepBodies hr (stepBodies_none_succ.mpr ⟨_, hk, hbody⟩)]
  constructor
  · rintro ⟨k, h1, h2, hk, hb1, hbody, hpos⟩
    exact ⟨k, hk, (hidx hb1 hbody).mp hpos⟩
  · rintro ⟨k, hk, hi⟩
    obtain ⟨h1, h2, hb1, hbody, -⟩ := stepBodies_none_split hk hb
    exact ⟨k, h1, h2, hk, hb1, hbody, (hidx hb1 hbody).mpr hi⟩

/-- A completed frame enters vertical blank, whatever the position before. -/
theorem bodiesEnterVblank_frame {p : Params} {h h' : Hardware} (hb : stepBodies p frameSteps h = (h', none)) :
    BodiesEnterVblank p frameSteps h := by
  obtain ⟨k, h1, h2, hk, hb1, hbody, hidx, -⟩ := stepBodies_reach hb (i := 241 * 341 + 1) (by decide)
  exact ⟨k, h1, h2, hk, hb1, hbody, (nextPosition_iff hbody (by decide)).mpr hidx⟩

/-- The latch after the engine's work, in one equation. -/
theorem NmiEffect.intLatch_eq {entered : Prop} [Decidable entered] {h h' : Hardware} (e : NmiEffect entered h h') :
    h'.intLatch = if h.nmiEnable = true ∧ entered then .nmi else h.intLatch := by
  split
  · next hc => exact e.latched hc.2 hc.1
  · next hc => exact e.kept fun hn => hc hn.symm

end Sys2Proof.Machine

namespace Sys2Proof.Machine

open Sys2Proof.Slice0

/-! ### Runs of STEP commands (spec R99, R133) -/

theorem step_of_aborted {s : State} {rec : FaultRecord} (hs : s.status = .aborted rec) :
    step s = .fault (.sessionAborted rec) := ifRunning_aborted _ hs

/-- A run of STEP commands that ends in a running session completed all their bodies. -/
theorem stepBodies_of_run {n : Nat} {s t : State} {rest : List CommandWord} (hs : s.status = .running)
    (hc : s.commands = List.replicate n stepWord ++ rest) (hrun : Host.Core.run Sys2Proof.core n s = .next t)
    (ht : t.status = .running) : ∃ h, stepBodies s.params n s.hw = (h, none) := by
  induction n generalizing s with
  | zero => exact ⟨s.hw, rfl⟩
  | succ n ih =>
    have hstep : step s = execStep .driver { s with commands := List.replicate n stepWord ++ rest } :=
      step_of_decodeCommand hs (rest := List.replicate n stepWord ++ rest) (by rw [hc]; rfl) decode_stepWord
    cases hb : stepBody s.params s.hw with
    | ok h1 =>
      rw [execStep_of_ok .driver (by exact hs) (by exact hb)] at hstep
      rw [run_of_next hstep] at hrun
      obtain ⟨h, hh⟩ := ih (s := complete { s with commands := List.replicate n stepWord ++ rest } h1) hs rfl hrun
      exact ⟨h, (stepBodies_of_ok hb n).trans hh⟩
    | error rec =>
      rw [execStep_of_error .driver (by exact hs) (by exact hb)] at hstep
      rw [run_of_next hstep] at hrun
      cases n with
      | zero => cases hrun; cases ht
      | succ n => cases (run_of_fault (step_of_aborted rfl)).symm.trans hrun

/-- A run of STEP commands that ends in a running session is the completed bodies. -/
theorem run_steps_running {n : Nat} {s t : State} {rest : List CommandWord} (hs : s.status = .running)
    (hc : s.commands = List.replicate n stepWord ++ rest) (hrun : Host.Core.run Sys2Proof.core n s = .next t)
    (ht : t.status = .running) : stepBodies s.params n s.hw = (t.hw, none) ∧ t.commands = rest := by
  obtain ⟨h, hb⟩ := stepBodies_of_run hs hc hrun ht
  cases (run_steps hs hc hb).symm.trans hrun
  exact ⟨hb, rfl⟩

/-- Settles O41: 341 more cycles in the frame are one more scanline. -/
theorem scanlineTakes341Steps : Obligations.ScanlineTakes341Steps := by
  intro s t rest hs hi hr hc hrun ht
  obtain ⟨hb, hcommands⟩ := run_steps_running hs hc hrun ht
  have hidx := rasterIndex_stepBodies hr hb
  have hframe := frame_stepBodies hi.params hr hi.hw hb
  obtain ⟨hcyc, hscan⟩ := position_of_rasterIndex (h := t.hw) (stepBodies_inRange hb)
  have hlt := hi.hw.frame
  obtain ⟨hcs, hss⟩ : cyc s.hw ≤ 340 ∧ scan s.hw ≤ 261 := hr
  unfold rasterIndex at hidx hframe hcyc hscan
  refine ⟨hcommands, by omega, by omega, fun h261 => ?_, fun hne => ?_⟩
  · rw [hframe, show (scan s.hw * 341 + cyc s.hw + 341) / 89342 = 1 by omega]
  · apply BitVec.eq_of_toNat_eq
    rw [hframe, show (scan s.hw * 341 + cyc s.hw + 341) / 89342 = 0 by omega, Nat.add_zero, Nat.mod_eq_of_lt hlt]

/-! ### The first frame (spec R242) -/

/-- A body of a STEP to a position below the screen completes and leaves the screen. -/
theorem stepBody_below_screen {p : Params} {h : Hardware} (hr : h.InRange) (hlow : 240 * 341 ≤ rasterIndex h) :
    ∃ h', stepBody p h = .ok h' ∧ h'.screen = h.screen := by
  obtain ⟨hc, hs⟩ : cyc h ≤ 340 ∧ scan h ≤ 261 := hr
  have hoff : phaseOf (tick p h) ≠ .visible := by
    rw [Ne, phaseOf_tick_visible]
    unfold rasterIndex at hlow
    unfold nextScanline nextCycle
    split_ifs <;> omega
  by_cases hn : NextPosition h 241 1
  · exact ⟨_, stepBody_of_enter hn, rfl⟩
  by_cases hx : NextPosition h 261 1
  · exact ⟨_, stepBody_of_exit hx, rfl⟩
  exact ⟨_, stepBody_of_quiet (quiet_of_ne hoff (mt (phaseOf_tick_enterVblank p h).mp hn)
    (mt (phaseOf_tick_exitVblank p h).mp hx) (phaseOf_tick_ne_unreachable p h)), rfl⟩

theorem stepBodies_below_screen {p : Params} {n : Nat} {h : Hardware} (hr : h.InRange)
    (hlow : 240 * 341 ≤ rasterIndex h) (hn : rasterIndex h + n ≤ 89342) :
    ∃ h', stepBodies p n h = (h', none) ∧ h'.screen = h.screen := by
  induction n with
  | zero => exact ⟨h, rfl, rfl⟩
  | succ n ih =>
    obtain ⟨h1, hb1, hscr1⟩ := ih (by omega)
    have hidx := rasterIndex_stepBodies hr hb1
    obtain ⟨h2, hb2, hscr2⟩ := stepBody_below_screen (p := p) (hr.stepBodies hb1) (by omega)
    exact ⟨h2, stepBodies_none_succ.mpr ⟨h1, hb1, hb2⟩, hscr2.trans hscr1⟩

/-- Settles O42: from the reset position the bodies stay below the screen until the frame ends. -/
theorem firstFrameTimeline : Obligations.FirstFrameTimeline := by
  intro s rest n hs hi hscan hcyc hvb hn hc
  have hr : s.hw.InRange := ⟨show cyc s.hw ≤ 340 by omega, show scan s.hw ≤ 261 by omega⟩
  have hstart : rasterIndex s.hw = 240 * 341 + 340 := by rw [rasterIndex, hscan, hcyc]
  obtain ⟨h, hb, hscreen⟩ := stepBodies_below_screen (p := s.params) (n := n) hr (by omega) (by omega)
  have hidx := rasterIndex_stepBodies hr hb
  have hframe := frame_stepBodies hi.params hr hi.hw hb
  have hv : VblankByPosition h := VblankByPosition.stepBodies (by simp [VblankByPosition, hvb, hstart]) hr hb
  have hnmi := stepBodies_nmiEffect s.params n s.hw
  rw [hb, propext (bodiesEnterVblank_iff hr hb)] at hnmi
  rw [hstart] at hidx hframe hnmi
  refine ⟨_, run_steps hs hc hb, hs, rfl, (hr.stepBodies hb).1, hidx, hv.trans ?_, ?_, hscreen, ?_⟩
  · rw [hidx]
    omega
  · have hentered : (∃ k, k < n ∧ (240 * 341 + 340 + (k + 1)) % 89342 = 241 * 341 + 1) ↔ 2 ≤ n :=
      ⟨fun ⟨k, hk, he⟩ => by omega, fun h2 => ⟨1, by omega, rfl⟩⟩
    rw [propext hentered] at hnmi
    exact hnmi.intLatch_eq
  · show h.frame.toNat = _
    rw [hframe]
    split
    · next h7162 => rw [h7162]
    · rw [Nat.div_eq_of_lt (by omega), Nat.add_zero, Nat.mod_eq_of_lt hi.hw.frame]

/-! ### STEP_FRAME (spec R142) -/

/-- A STEP_FRAME that ends in a running session completed all its bodies. -/
theorem execStepFrame_running {s t : State} {ag : Agent} (h : execStepFrame ag s = .next t)
    (ht : t.status = .running) : stepBodies s.params frameSteps s.hw = (t.hw, none) ∧ t = complete s t.hw := by
  obtain ⟨-, ⟨h', hb, rfl⟩ | ⟨h', rec, -, rfl⟩⟩ := execStepFrame_next h
  · exact ⟨hb, rfl⟩
  · cases ht

/-- Settles O44: both are the same bodies in a row. -/
theorem stepFrameIsAFrameOfSteps : Obligations.StepFrameIsAFrameOfSteps := by
  intro s t ag rest hs hc h ht
  obtain ⟨hb, ht'⟩ := execStepFrame_running (ag := ag) h ht
  rw [ht']
  exact run_steps hs hc hb

/-- Settles O43: a frame's 89342 cycles come back to the position, passing (241, 1) once. -/
theorem frameReturnsToItsPosition : Obligations.FrameReturnsToItsPosition := by
  intro s t ag hs hi hr h ht
  obtain ⟨hb, -⟩ := execStepFrame_running (ag := ag) h ht
  have hr' := hr.stepBodies hb
  have hlt := rasterIndex_lt hr
  have hidx : rasterIndex t.hw = rasterIndex s.hw := by
    rw [rasterIndex_stepBodies hr hb, frameSteps]
    omega
  obtain ⟨hcyc, hscan⟩ := position_of_rasterIndex hr
  obtain ⟨hcyc', hscan'⟩ := position_of_rasterIndex hr'
  rw [hidx] at hcyc' hscan'
  refine ⟨BitVec.eq_of_toNat_eq (hcyc'.trans hcyc.symm), BitVec.eq_of_toNat_eq (hscan'.trans hscan.symm), ?_, ?_, ?_⟩
  · rw [frame_stepBodies hi.params hr hi.hw hb, frameSteps]
    congr 1
    omega
  · have hnmi := execStepFrame_nmiEffect (ag := ag) h
    have hentered : FrameEntersVblank s := bodiesEnterVblank_frame hb
    rw [propext (iff_true_intro hentered)] at hnmi
    simpa using hnmi.intLatch_eq
  · have hv : VblankByPosition t.hw :=
      frame_establishes (Q := Hardware.InRange) (i := 241 * 341 + 1) (by decide) (fun _ _ _ hs => stepBody_inRange hs)
        (fun _ _ _ hs hi => vblankByPosition_of_enter hs hi) (fun _ _ hq hv hs => hv.stepBody hq hs) hr hb
    rw [VblankByPosition, hidx] at hv
    exact hv

/-! ### The picture of a frame (spec R142, R170, R183, R243) -/

theorem pixelFits_of_basesFit {h : Hardware} (hf : BasesFit h) (x y : Nat) : PixelFits h x y := by
  obtain ⟨hn, hb⟩ := hf
  have hx := scrollOfX_lt h x
  have hy := scrollOfY_lt h y
  have htile : ppu h (tileAddress h.nametableBase.toNat (scrollOfX h x) (scrollOfY h y)) < 256 := BitVec.isLt _
  unfold PixelFits
  generalize ppu h _ = tile at htile
  unfold tileAddress planeAddress groupAddress
  omega

theorem pixelNumber_lt (h : Hardware) (x y : Nat) : pixelNumber h x y < 16 := by
  unfold pixelNumber paletteNumber attributeNumber patternNumber
  omega

/-- The bodies of a frame leave what the pipeline reads. -/
theorem pixelIndex_of_engineLeaves {p : Params} {h h' : Hardware} (he : EngineLeaves h h') (x y : Nat) :
    pixelIndex p h' x y = pixelIndex p h x y := by
  rw [show h' = _ from he]
  exact pixelIndex_congr rfl rfl rfl rfl fun _ => rfl

/-- A completed frame leaves every pixel with its colour: the STEP to the pixel's position stores it, and a later STEP
stores it again or leaves it. -/
theorem frame_renders {p : Params} (hp : p.wf) {h h' : Hardware} (hw : h.Wf p)
    (hb : stepBodies p frameSteps h = (h', none)) {x y n : Nat} (hx : x < 256) (hy : y < 240)
    (hi : pixelIndex p h x y = .ok (BitVec.ofNat 6 n)) : readPixel h'.screen x y = hardwareColor n := by
  have hset : ∀ h1 h2, (EngineLeaves h h1 ∧ h1.Wf p) → stepBody p h1 = .ok h2 → NextPosition h1 y (x + 1) →
      readPixel h2.screen x y = hardwareColor n := by
    rintro h1 h2 ⟨he, hw1⟩ hs hn
    cases (stepBody_of_visible hn hx hy ((pixelIndex_of_engineLeaves he x y).trans hi)).symm.trans hs
    exact readPixel_writePixel_same _ _ _ hw1.screen
  have h0 : EngineLeaves h h ∧ h.Wf p := ⟨rfl, hw⟩
  refine frame_establishes (P := fun h => readPixel h.screen x y = hardwareColor n)
    (Q := fun h1 => EngineLeaves h h1 ∧ h1.Wf p) (i := y * 341 + (x + 1)) (by omega) ?_ ?_ ?_ h0 hb
  · exact fun h1 h2 hq hs => ⟨EngineLeaves.trans hq.1 (stepBody_engineLeaves hs), hq.2.stepBody hp hs⟩
  · exact fun h1 h2 hq hs hidx => hset h1 h2 hq hs ((nextPosition_iff hs (by omega)).mpr hidx)
  · intro h1 h2 hq hpix hs
    by_cases hn : NextPosition h1 y (x + 1)
    · exact hset h1 h2 hq hs hn
    · exact (stepBody_readPixel_other hs hx hn).trans hpix

/-- A STEP_FRAME from a state whose pipeline gives every pixel its palette entry. -/
theorem exec_stepFrame_renders {s : State} (ag : Agent) (hs : s.status = .running) (hi : s.Inv) {col : Nat → Nat → Nat}
    (hpix : ∀ x y, pixelIndex s.params s.hw x y = .ok (BitVec.ofNat 6 (col x y))) :
    ∃ h, exec (.stepFrame ag) s = .next (complete s h) ∧ EngineLeaves s.hw h ∧
      ∀ x y, x < 256 → y < 240 → readPixel h.screen x y = hardwareColor (col x y) := by
  obtain ⟨h, hb⟩ := stepBodies_complete (p := s.params) frameSteps fun x y => ⟨_, hpix x y⟩
  have he := stepBodies_engineLeaves s.params frameSteps s.hw
  rw [hb] at he
  exact ⟨h, execStepFrame_of_none ag hs hb, he, fun x y hx hy => frame_renders hi.params hi.hw hb hx hy (hpix x y)⟩

/-- Settles O45: the pipeline faults at no pixel, and the frame stores every one. -/
theorem stepFrameRendersEveryPixel : Obligations.StepFrameRendersEveryPixel := by
  intro s ag hs hi hbases hpal
  have hpix : ∀ x y, pixelIndex s.params s.hw x y =
      .ok (BitVec.ofNat 6 (ppu s.hw (0x3F00 + pixelNumber s.hw x y))) := by
    intro x y
    have hlt := hpal _ (pixelNumber_lt s.hw x y)
    rw [pixelIndex_ok_of_fits (pixelFits_of_basesFit hbases x y) (.inl hlt), Nat.mod_eq_of_lt hlt]
  obtain ⟨h, hexec, he, hscreen⟩ := exec_stepFrame_renders ag hs hi hpix
  exact ⟨_, hexec, hs, rfl, he, rfl, rfl, hscreen⟩

/-- With a blank nametable and a blank tile 0 every pixel has the palette index 0 (spec R183). -/
theorem pixelNumber_of_blank {h : Hardware} (hname : ∀ i, i < 0x400 → ppu h (h.nametableBase.toNat + i) = 0)
    (htile : ∀ i, i < 16 → ppu h (h.bgPatternBase.toNat + i) = 0) (x y : Nat) : pixelNumber h x y = 0 := by
  have hx := scrollOfX_lt h x
  have hy := scrollOfY_lt h y
  have h1 : ppu h (tileAddress h.nametableBase.toNat (scrollOfX h x) (scrollOfY h y)) = 0 := by
    rw [tileAddress, Nat.add_assoc]
    exact hname _ (by omega)
  have h2 : ppu h (groupAddress h.nametableBase.toNat (scrollOfX h x) (scrollOfY h y)) = 0 := by
    rw [groupAddress, Nat.add_assoc]
    exact hname _ (by omega)
  have h3 : ∀ k, k = 0 ∨ k = 8 → ppu h (planeAddress h.bgPatternBase.toNat 0 (scrollOfY h y) + k) = 0 := by
    intro k hk
    rw [planeAddress, Nat.mul_zero, Nat.add_zero, Nat.add_assoc]
    exact htile _ (by omega)
  have h30 := h3 0 (.inl rfl)
  rw [Nat.add_zero] at h30
  simp [pixelNumber, paletteNumber, h1, h2, h30, h3 8 (.inr rfl), attributeNumber, patternNumber]

/-- Settles O46: every pixel's palette byte is entry 0, whose colour is black. -/
theorem blackFrame : Obligations.BlackFrame := by
  intro s ag hs hi hbases hname htile hpal
  have hpix : ∀ x y, pixelIndex s.params s.hw x y = .ok (BitVec.ofNat 6 0x0F) := by
    intro x y
    have hbyte : ppu s.hw (0x3F00 + pixelNumber s.hw x y) = 0x0F := by rwa [pixelNumber_of_blank hname htile]
    rw [pixelIndex_ok_of_fits (pixelFits_of_basesFit hbases x y) (.inl (by omega)), hbyte]
  obtain ⟨h, hexec, -, hscreen⟩ := exec_stepFrame_renders ag hs hi hpix
  exact ⟨_, hexec, hs, hscreen⟩

/-! ### The picture does not depend on NmiEnable (spec R181)

As for VBlank above: a computation from `h` with another NmiEnable and latch ends with other values of these two at
most. -/

/-- `h` with NmiEnable and the latch replaced. -/
def setNmi (b : Bool) (l : IntLatch) (h : Hardware) : Hardware := { h with nmiEnable := b, intLatch := l }

theorem renderPixel_setNmi (p : Params) (h : Hardware) (x y : Nat) (b : Bool) (l : IntLatch) :
    renderPixel p (setNmi b l h) x y = (renderPixel p h x y).map (setNmi b l) := by
  have hpix : pixelIndex p (setNmi b l h) x y = pixelIndex p h x y :=
    pixelIndex_congr rfl rfl rfl rfl fun _ => rfl
  rw [renderPixel, renderPixel, hpix]
  cases pixelIndex p h x y <;> rfl

/-- ENTER_VBLANK alone looks at NmiEnable, and it writes the latch by it. -/
theorem phaseAction_setNmi (p : Params) (ph : Phase) (h : Hardware) (b : Bool) (l : IntLatch) :
    ∃ l', phaseAction p ph (setNmi b l h) = (phaseAction p ph h).map (setNmi b l') := by
  cases ph with
  | visible => exact ⟨l, renderPixel_setNmi p h _ _ b l⟩
  | enterVblank => exact ⟨if b then .nmi else l, rfl⟩
  | _ => exact ⟨l, rfl⟩

theorem stepBody_setNmi (p : Params) (h : Hardware) (b : Bool) (l : IntLatch) :
    ∃ l', stepBody p (setNmi b l h) = (stepBody p h).map (setNmi b l') := by
  obtain ⟨l', hl⟩ := phaseAction_setNmi p (phaseOf (tick p h)) (tick p h) b l
  refine ⟨l', ?_⟩
  have hl' : phaseAction p (phaseOf (tick p (setNmi b l h))) (tick p (setNmi b l h)) = _ := hl
  cases ha : phaseAction p (phaseOf (tick p h)) (tick p h) with
  | ok h' => rw [ha] at hl'; rw [stepBody_of_action hl', stepBody_of_action ha]; rfl
  | error c => rw [ha] at hl'; rw [stepBody_of_action_error hl', stepBody_of_action_error ha]; rfl

theorem stepBodies_setNmi (p : Params) (n : Nat) (h : Hardware) (b : Bool) (l : IntLatch) :
    ∃ l', stepBodies p n (setNmi b l h) = (setNmi b l' (stepBodies p n h).1, (stepBodies p n h).2) := by
  induction n generalizing h l with
  | zero => exact ⟨l, rfl⟩
  | succ n ih =>
    obtain ⟨l', hl⟩ := stepBody_setNmi p h b l
    cases hb : stepBody p h with
    | ok h' => rw [hb] at hl; rw [stepBodies_of_ok hl, stepBodies_of_ok hb]; exact ih h' l'
    | error rec => rw [hb] at hl; rw [stepBodies_of_error hl, stepBodies_of_error hb]; exact ⟨l, rfl⟩

theorem execStepFrame_setNmi {s t : State} {ag : Agent} (b : Bool) (l : IntLatch) (h : execStepFrame ag s = .next t) :
    ∃ l', execStepFrame ag { s with hw := setNmi b l s.hw } = .next { t with hw := setNmi b l' t.hw } := by
  obtain ⟨l', hl⟩ := stepBodies_setNmi s.params frameSteps s.hw b l
  obtain ⟨hs, ⟨h', hb, rfl⟩ | ⟨h', rec, hb, rfl⟩⟩ := execStepFrame_next h <;> rw [hb] at hl
  · exact ⟨l', execStepFrame_of_none ag hs hl⟩
  · exact ⟨l', execStepFrame_of_some ag hs hl⟩

/-- Settles O47: the bodies from the two states are followed side by side. -/
theorem pictureIgnoresNmiEnable : Obligations.PictureIgnoresNmiEnable := by
  intro s t t' ag b _ h h'
  obtain ⟨l, hl⟩ := execStepFrame_setNmi (ag := ag) b s.hw.intLatch h
  cases hl.symm.trans h'
  exact ⟨rfl, rfl⟩

end Sys2Proof.Machine
